-- ==== Sys2Proof/Word.lean ====
section
/-! DEFINITION. The bit vectors of the machine: bytes, 16-bit words, and the fields of an opcode. -/

namespace Sys2Proof

/-- A register, a timer, a memory byte, the immediate `nn` (10_state.md R10, R18, R19; 20_memory.md R30). -/
abbrev Byte := BitVec 8

/-- An opcode, the program counter, the index register, a return address (10_state.md R13, R16, R17). -/
abbrev Word := BitVec 16

/-- A register number, the field `x` or `y` of an opcode (30_encoding.md R51). -/
abbrev RegIdx := BitVec 4

/-- The 4-bit immediate `n` (30_encoding.md R51). -/
abbrev Nibble := BitVec 4

/-- The 12-bit address immediate `nnn` (30_encoding.md R51). -/
abbrev Addr12 := BitVec 12

end Sys2Proof
end

