-- ==== Sys2Proof/Syntax.lean ====
section
/-! DEFINITION. The instruction set: one constructor per instruction of spec/opcode_table.json. -/

namespace Sys2Proof

/-- The 34 instructions of 30_encoding.md R60, in the table's order, and the unimplemented words of R61. Ignored fields
(R52) select nothing and have no effect, so they are not kept. The table's 53 rows of mnemonic UNIMPL partition the
unimplemented words and share one rule and one effect; their constructor carries the word, which the diagnostic reports. -/
inductive Instr where
  | cls                                    -- 0__0
  | ret                                    -- 0__E
  | jp (nnn : Addr12)                      -- 1nnn
  | call (nnn : Addr12)                    -- 2nnn
  | seImm (x : RegIdx) (nn : Byte)         -- 3xnn
  | sneImm (x : RegIdx) (nn : Byte)        -- 4xnn
  | seReg (x y : RegIdx)                   -- 5xy_
  | ldImm (x : RegIdx) (nn : Byte)         -- 6xnn
  | addImm (x : RegIdx) (nn : Byte)        -- 7xnn
  | ldReg (x y : RegIdx)                   -- 8xy0
  | orReg (x y : RegIdx)                   -- 8xy1
  | andReg (x y : RegIdx)                  -- 8xy2
  | xorReg (x y : RegIdx)                  -- 8xy3
  | addReg (x y : RegIdx)                  -- 8xy4
  | subReg (x y : RegIdx)                  -- 8xy5
  | shr (x : RegIdx)                       -- 8x_6
  | subn (x y : RegIdx)                    -- 8xy7
  | shl (x : RegIdx)                       -- 8x_E
  | sneReg (x y : RegIdx)                  -- 9xy_
  | ldI (nnn : Addr12)                     -- Annn
  | jpV0 (nnn : Addr12)                    -- Bnnn
  | rnd (x : RegIdx) (nn : Byte)           -- Cxnn
  | drw (x y : RegIdx) (n : Nibble)        -- Dxyn
  | skp (x : RegIdx)                       -- Ex9E
  | sknp (x : RegIdx)                      -- ExA1
  | ldVxDt (x : RegIdx)                    -- Fx07
  | ldVxK (x : RegIdx)                     -- Fx0A
  | ldDtVx (x : RegIdx)                    -- Fx15
  | ldStVx (x : RegIdx)                    -- Fx18
  | addI (x : RegIdx)                      -- Fx1E
  | ldF (x : RegIdx)                       -- Fx29
  | ldB (x : RegIdx)                       -- Fx33
  | stRegs (x : RegIdx)                    -- Fx55
  | ldRegs (x : RegIdx)                    -- Fx65
  | unimpl (op : Word)                     -- every other word
  deriving DecidableEq, Repr

end Sys2Proof
end

