-- ==== Sys2Proof/WellFormed.lean ====
section
/-! DEFINITION. Which instruction terms stand for words of the machine. -/

namespace Sys2Proof

/-- The unimplemented words, by family, as the table of 30_encoding.md R61 lists them. In families 0 and 8 the secondary
key is the low nibble, in families E and F the low byte; the other twelve families have no unimplemented word. -/
def Word.unimplemented (op : Word) : Bool :=
  let hi := op.extractLsb' 12 4
  let n := op.extractLsb' 0 4
  let nn := op.extractLsb' 0 8
  (hi == 0x0#4 && !([0x0#4, 0xE#4].contains n)) ||
  (hi == 0x8#4 && [0x8#4, 0x9#4, 0xA#4, 0xB#4, 0xC#4, 0xD#4, 0xF#4].contains n) ||
  (hi == 0xE#4 && !([0x9E#8, 0xA1#8].contains nn)) ||
  (hi == 0xF#4 && !([0x07#8, 0x0A#8, 0x15#8, 0x18#8, 0x1E#8, 0x29#8, 0x33#8, 0x55#8, 0x65#8].contains nn))

/-- Every field of an implemented instruction takes every value of its width (30_encoding.md R53), so its terms are all
well formed; the word of an `unimpl` must be one that R61 lists. -/
def Instr.wf : Instr → Bool
  | .cls => true
  | .ret => true
  | .jp _ => true
  | .call _ => true
  | .seImm _ _ => true
  | .sneImm _ _ => true
  | .seReg _ _ => true
  | .ldImm _ _ => true
  | .addImm _ _ => true
  | .ldReg _ _ => true
  | .orReg _ _ => true
  | .andReg _ _ => true
  | .xorReg _ _ => true
  | .addReg _ _ => true
  | .subReg _ _ => true
  | .shr _ => true
  | .subn _ _ => true
  | .shl _ => true
  | .sneReg _ _ => true
  | .ldI _ => true
  | .jpV0 _ => true
  | .rnd _ _ => true
  | .drw _ _ _ => true
  | .skp _ => true
  | .sknp _ => true
  | .ldVxDt _ => true
  | .ldVxK _ => true
  | .ldDtVx _ => true
  | .ldStVx _ => true
  | .addI _ => true
  | .ldF _ => true
  | .ldB _ => true
  | .stRegs _ => true
  | .ldRegs _ => true
  | .unimpl op => op.unimplemented

end Sys2Proof
end

