-- ==== Sys2Proof/Decode.lean ====
section
/-! DEFINITION. The decoder (30_encoding.md R51 to R63), the encoder (R60, R64), and the opcode map of R60. -/

namespace Sys2Proof

/-! ### Fields of an opcode (30_encoding.md R51) -/

/-- Bits 15:12, the family. -/
def Word.hi (op : Word) : Nibble := op.extractLsb' 12 4
/-- Bits 11:8, the register number of Vx. -/
def Word.x (op : Word) : RegIdx := op.extractLsb' 8 4
/-- Bits 7:4, the register number of Vy. -/
def Word.y (op : Word) : RegIdx := op.extractLsb' 4 4
/-- Bits 3:0, the 4-bit immediate or secondary key. -/
def Word.n (op : Word) : Nibble := op.extractLsb' 0 4
/-- Bits 7:0, the 8-bit immediate or secondary key. -/
def Word.nn (op : Word) : Byte := op.extractLsb' 0 8
/-- Bits 11:0, the 12-bit address. -/
def Word.nnn (op : Word) : Addr12 := op.extractLsb' 0 12

/-! ### The decoder (30_encoding.md R63) -/

/-- Family 0, by the low nibble (R55). -/
def decode0 (op : Word) : Instr :=
  if op.n = 0x0 then .cls
  else if op.n = 0xE then .ret
  else .unimpl op

/-- Family 8, by the low nibble (R56). -/
def decode8 (op : Word) : Instr :=
  if op.n = 0x0 then .ldReg op.x op.y
  else if op.n = 0x1 then .orReg op.x op.y
  else if op.n = 0x2 then .andReg op.x op.y
  else if op.n = 0x3 then .xorReg op.x op.y
  else if op.n = 0x4 then .addReg op.x op.y
  else if op.n = 0x5 then .subReg op.x op.y
  else if op.n = 0x6 then .shr op.x
  else if op.n = 0x7 then .subn op.x op.y
  else if op.n = 0xE then .shl op.x
  else .unimpl op

/-- Family E, by the low byte (R57). -/
def decodeE (op : Word) : Instr :=
  if op.nn = 0x9E then .skp op.x
  else if op.nn = 0xA1 then .sknp op.x
  else .unimpl op

/-- Family F, by the low byte (R58). -/
def decodeF (op : Word) : Instr :=
  if op.nn = 0x07 then .ldVxDt op.x
  else if op.nn = 0x0A then .ldVxK op.x
  else if op.nn = 0x15 then .ldDtVx op.x
  else if op.nn = 0x18 then .ldStVx op.x
  else if op.nn = 0x1E then .addI op.x
  else if op.nn = 0x29 then .ldF op.x
  else if op.nn = 0x33 then .ldB op.x
  else if op.nn = 0x55 then .stRegs op.x
  else if op.nn = 0x65 then .ldRegs op.x
  else .unimpl op

/-- Primary dispatch on the high nibble, 16-way (R54); total on all 65536 words (R62). -/
def decode (op : Word) : Instr :=
  if op.hi = 0x0 then decode0 op
  else if op.hi = 0x1 then .jp op.nnn
  else if op.hi = 0x2 then .call op.nnn
  else if op.hi = 0x3 then .seImm op.x op.nn
  else if op.hi = 0x4 then .sneImm op.x op.nn
  else if op.hi = 0x5 then .seReg op.x op.y
  else if op.hi = 0x6 then .ldImm op.x op.nn
  else if op.hi = 0x7 then .addImm op.x op.nn
  else if op.hi = 0x8 then decode8 op
  else if op.hi = 0x9 then .sneReg op.x op.y
  else if op.hi = 0xA then .ldI op.nnn
  else if op.hi = 0xB then .jpV0 op.nnn
  else if op.hi = 0xC then .rnd op.x op.nn
  else if op.hi = 0xD then .drw op.x op.y op.n
  else if op.hi = 0xE then decodeE op
  else decodeF op

/-! ### Bytes -/

/-- The opcode of the two bytes at `pc0` and `pc0 + 1`: the lower address holds the high byte (20_memory.md R34). -/
def wordOfBytes (b0 b1 : Byte) : Word := b0 ++ b1

/-- The two bytes of an opcode in the order of their addresses (20_memory.md R34, R37). -/
def bytesOfWord (op : Word) : List Byte := [op.extractLsb' 8 8, op.extractLsb' 0 8]

/-- Why a string of bytes holds no instruction. No bit pattern is illegal (30_encoding.md R62), so this is the one reason. -/
inductive DecodeError where
  /-- Fewer than the two bytes that every instruction has (30_encoding.md R50). -/
  | truncated
  deriving DecidableEq, Repr

/-- The instruction at the head of a string of bytes, and the bytes after it (30_encoding.md R50). -/
def decodeBytes : List Byte → Except DecodeError (Instr × List Byte)
  | b0 :: b1 :: rest => .ok (decode (wordOfBytes b0 b1), rest)
  | [_] => .error .truncated
  | [] => .error .truncated

/-- The decoder on a word numbered as spec/opcode_table.json numbers it (bit 0 the least significant bit of the one
word). Bits above `nbits` are 0; the word is laid out in memory order and given to `decodeBytes`. -/
def decodeTableWord (nbits w : Nat) : Option Instr :=
  match decodeBytes (bytesOfWord (BitVec.ofNat 16 (w % 2 ^ nbits))) with
  | .ok (i, _) => some i
  | .error _ => none

/-! ### The encoder -/

/-- The canonical word of an instruction, from the patterns of 30_encoding.md R60. Ignored fields are written as R64
writes them: `00E0`, `00EE`, `5xy0`, `9xy0`, `8x06`, `8x0E`. -/
def encode : Instr → Word
  | .cls => 0x00E0#16
  | .ret => 0x00EE#16
  | .jp nnn => 0x1#4 ++ nnn
  | .call nnn => 0x2#4 ++ nnn
  | .seImm x nn => 0x3#4 ++ x ++ nn
  | .sneImm x nn => 0x4#4 ++ x ++ nn
  | .seReg x y => 0x5#4 ++ x ++ y ++ 0x0#4
  | .ldImm x nn => 0x6#4 ++ x ++ nn
  | .addImm x nn => 0x7#4 ++ x ++ nn
  | .ldReg x y => 0x8#4 ++ x ++ y ++ 0x0#4
  | .orReg x y => 0x8#4 ++ x ++ y ++ 0x1#4
  | .andReg x y => 0x8#4 ++ x ++ y ++ 0x2#4
  | .xorReg x y => 0x8#4 ++ x ++ y ++ 0x3#4
  | .addReg x y => 0x8#4 ++ x ++ y ++ 0x4#4
  | .subReg x y => 0x8#4 ++ x ++ y ++ 0x5#4
  | .shr x => 0x8#4 ++ x ++ 0x06#8
  | .subn x y => 0x8#4 ++ x ++ y ++ 0x7#4
  | .shl x => 0x8#4 ++ x ++ 0x0E#8
  | .sneReg x y => 0x9#4 ++ x ++ y ++ 0x0#4
  | .ldI nnn => 0xA#4 ++ nnn
  | .jpV0 nnn => 0xB#4 ++ nnn
  | .rnd x nn => 0xC#4 ++ x ++ nn
  | .drw x y n => 0xD#4 ++ x ++ y ++ n
  | .skp x => 0xE#4 ++ x ++ 0x9E#8
  | .sknp x => 0xE#4 ++ x ++ 0xA1#8
  | .ldVxDt x => 0xF#4 ++ x ++ 0x07#8
  | .ldVxK x => 0xF#4 ++ x ++ 0x0A#8
  | .ldDtVx x => 0xF#4 ++ x ++ 0x15#8
  | .ldStVx x => 0xF#4 ++ x ++ 0x18#8
  | .addI x => 0xF#4 ++ x ++ 0x1E#8
  | .ldF x => 0xF#4 ++ x ++ 0x29#8
  | .ldB x => 0xF#4 ++ x ++ 0x33#8
  | .stRegs x => 0xF#4 ++ x ++ 0x55#8
  | .ldRegs x => 0xF#4 ++ x ++ 0x65#8
  | .unimpl op => op

/-- The canonical bytes of an instruction, in the order of their addresses. -/
def encodeBytes (i : Instr) : List Byte := bytesOfWord (encode i)

/-! ### The opcode map (30_encoding.md R60) -/

/-- A row of the map: its number, and the mask and match that select its words. -/
structure OpcodeRow where
  number : Nat
  mask : Word
  value : Word
  deriving DecidableEq, Repr

/-- A word is the row's instruction when `(op & mask) = match` (R60). -/
def OpcodeRow.selects (r : OpcodeRow) (op : Word) : Bool := op &&& r.mask == r.value

/-- Rows 1 to 18 of R60: families 0 to 8. -/
def opcodeMapLow : List OpcodeRow :=
  [⟨1, 0xF00F, 0x0000⟩, ⟨2, 0xF00F, 0x000E⟩, ⟨3, 0xF000, 0x1000⟩, ⟨4, 0xF000, 0x2000⟩, ⟨5, 0xF000, 0x3000⟩,
   ⟨6, 0xF000, 0x4000⟩, ⟨7, 0xF000, 0x5000⟩, ⟨8, 0xF000, 0x6000⟩, ⟨9, 0xF000, 0x7000⟩, ⟨10, 0xF00F, 0x8000⟩,
   ⟨11, 0xF00F, 0x8001⟩, ⟨12, 0xF00F, 0x8002⟩, ⟨13, 0xF00F, 0x8003⟩, ⟨14, 0xF00F, 0x8004⟩, ⟨15, 0xF00F, 0x8005⟩,
   ⟨16, 0xF00F, 0x8006⟩, ⟨17, 0xF00F, 0x8007⟩, ⟨18, 0xF00F, 0x800E⟩]

/-- Rows 19 to 34 of R60: families 9 to F. -/
def opcodeMapHigh : List OpcodeRow :=
  [⟨19, 0xF000, 0x9000⟩, ⟨20, 0xF000, 0xA000⟩, ⟨21, 0xF000, 0xB000⟩, ⟨22, 0xF000, 0xC000⟩, ⟨23, 0xF000, 0xD000⟩,
   ⟨24, 0xF0FF, 0xE09E⟩, ⟨25, 0xF0FF, 0xE0A1⟩, ⟨26, 0xF0FF, 0xF007⟩, ⟨27, 0xF0FF, 0xF00A⟩, ⟨28, 0xF0FF, 0xF015⟩,
   ⟨29, 0xF0FF, 0xF018⟩, ⟨30, 0xF0FF, 0xF01E⟩, ⟨31, 0xF0FF, 0xF029⟩, ⟨32, 0xF0FF, 0xF033⟩, ⟨33, 0xF0FF, 0xF055⟩,
   ⟨34, 0xF0FF, 0xF065⟩]

/-- The complete map of R60, in its order. -/
def opcodeMap : List OpcodeRow := opcodeMapLow ++ opcodeMapHigh

/-- The number of an instruction's row in R60; `none` for an unimplemented word, which has no row there. -/
def Instr.rowNumber : Instr → Option Nat
  | .cls => some 1
  | .ret => some 2
  | .jp _ => some 3
  | .call _ => some 4
  | .seImm _ _ => some 5
  | .sneImm _ _ => some 6
  | .seReg _ _ => some 7
  | .ldImm _ _ => some 8
  | .addImm _ _ => some 9
  | .ldReg _ _ => some 10
  | .orReg _ _ => some 11
  | .andReg _ _ => some 12
  | .xorReg _ _ => some 13
  | .addReg _ _ => some 14
  | .subReg _ _ => some 15
  | .shr _ => some 16
  | .subn _ _ => some 17
  | .shl _ => some 18
  | .sneReg _ _ => some 19
  | .ldI _ => some 20
  | .jpV0 _ => some 21
  | .rnd _ _ => some 22
  | .drw _ _ _ => some 23
  | .skp _ => some 24
  | .sknp _ => some 25
  | .ldVxDt _ => some 26
  | .ldVxK _ => some 27
  | .ldDtVx _ => some 28
  | .ldStVx _ => some 29
  | .addI _ => some 30
  | .ldF _ => some 31
  | .ldB _ => some 32
  | .stRegs _ => some 33
  | .ldRegs _ => some 34
  | .unimpl _ => none

end Sys2Proof
end

