-- ==== Sys2Proof/Config.lean ====
section
/-! DEFINITION. The free values of the machine: what crosses the core's boundary into a `Step` and is bound by no rule.
Each is opaque, so that no proof can learn a value of it; the argument is the number of the Step (State.stepCount). -/

namespace Sys2Proof

/-- KEYS of the n-th Step, bit k set when key k is down: "unconstrained between steps" (60_exceptions.md R161; log 2). -/
opaque Config.keys : Nat → BitVec 16

/-- The random byte of the n-th Step, with no generator, seed or law (60_exceptions.md R162; log 3). -/
opaque Config.randomByte : Nat → BitVec 8

/-- Which of several pressed keys `Fx0A` reports in the n-th Step, as an index reduced modulo their number: any pressed
key may be the one (46_f_family.md R122, decision D6; log 4). -/
opaque Config.keyPick : Nat → BitVec 4

end Sys2Proof
end

