-- ==== Sys2Proof/Machine/State.lean ====
section
/-! DEFINITION. The state of the machine (10_state.md), of the reference Display (60_exceptions.md R158), and the values
that cross the core's boundary (60_exceptions.md R163); the state after reset (10_state.md R23). -/

namespace Sys2Proof.Machine

/-! ### Values on the boundary -/

/-- What the host supplies to one `Step` (60_exceptions.md R163): KEYS (bit k set when key k is down, R161), the random
byte (R162), and which of several pressed keys `Fx0A` takes, as an index into the pressed keys in ascending order,
reduced modulo their number (46_f_family.md R122). -/
structure StepInput where
  keys : BitVec 16
  random : Byte
  pick : BitVec 4
  deriving DecidableEq, Repr

/-- The FAULT cell (10_state.md R20; 60_exceptions.md R140). -/
inductive FaultCell where
  /-- Code 0: the machine runs. -/
  | none
  /-- Code 1: a call with 16 return addresses held. -/
  | stackOverflow
  /-- Code 2: a return with none held. -/
  | stackUnderflow
  /-- Code 3: an access above 0xFFF. -/
  | addressOutOfRange
  /-- Code 4: a key number above 15. -/
  | keyIndexOutOfRange
  deriving DecidableEq, Repr

/-- A fatal fault as it is reported to the host: its cause and the value reported (60_exceptions.md R140, R141). -/
inductive FaultReport where
  | stackOverflow
  | stackUnderflow
  /-- The lowest offending address (R144). -/
  | addressOutOfRange (addr : Nat)
  /-- The key number `V[x]` (R145). -/
  | keyIndexOutOfRange (key : Byte)
  deriving DecidableEq, Repr

/-- What leaves the core (60_exceptions.md R163). -/
inductive Event where
  /-- `Display.clear()` (R156). -/
  | displayClear
  /-- `Display.draw(x, y, rows)` (R157). -/
  | displayDraw (x y : Byte) (rows : List Byte)
  /-- The silence event of a `Tick` (R152). -/
  | silence
  /-- The non-fatal diagnostic `UnimplementedOpcode(code, pc)` (R146). -/
  | unimplementedOpcode (code pc : Word)
  /-- A fatal fault made visible to the host (R141). -/
  | faultReport (r : FaultReport)
  /-- `Load` signals `ProgramTooLarge` (70_reset_and_hazards.md R173). -/
  | programTooLarge
  deriving DecidableEq, Repr

/-! ### The state -/

/-- Memory: the bytes that differ from what an unlisted address reads as, in rising order of address. -/
abbrev Memory := List Host.Cell

/-- The pixel grid of the reference Display (60_exceptions.md R158): 32 rows of 64 pixels, `true` is lit. -/
abbrev Display := Vector (Vector Bool 64) 32

/-- DISPLAY_INIT, the grid before the first `clear()`: all pixels off, the spec's default. DESIGN CHOICE, unsafe (log 8). -/
def Display.blank : Display := Vector.replicate 32 (Vector.replicate 64 false)

/-- The tuple of 10_state.md, then the reference Display, then the model's own fields. -/
structure State where
  /-- V[0] to V[15] (R10); VF is V[15] (R12). -/
  v : Vector Byte 16
  /-- The index register I (R16). -/
  i : Word
  /-- The program counter PC (R13). -/
  pc : Word
  /-- The stack pointer SP, 0 to 16: the number of return addresses held (R17). -/
  sp : Fin 17
  /-- The return stack STK (R17). -/
  stk : Vector Word 16
  /-- The delay timer DT (R18). -/
  dt : Byte
  /-- The sound timer ST (R19). -/
  st : Byte
  /-- The memory image MEM (R21). -/
  mem : Memory
  /-- The FAULT cell (R20). -/
  fault : FaultCell
  /-- PIX, the reference Display's grid (60_exceptions.md R158). -/
  display : Display
  /-- The model's own: boundary inputs lined up by the host for the coming Steps, oldest first (log 5). -/
  oracle : List StepInput
  /-- The model's own: the number of Steps performed, which indexes the free values of Config (log 2, 3, 4). -/
  stepCount : Nat
  /-- The model's own: what has left the core, newest first (log 10). -/
  events : List Event
  deriving DecidableEq, Repr

/-! ### The outcomes of a step -/

/-- Why a step stops the machine for good. -/
inductive Fault where
  /-- Raised by `step` alone, when the FAULT cell is set: "While FAULT != None the Step action is not enabled" (10_state.md
  R20; 60_exceptions.md R141). Safe: nothing is said of such a step. The faulting Step itself is a next state, with the
  cell set. -/
  | stopped (cause : FaultCell)
  deriving DecidableEq, Repr

/-- Why an instruction has no meaning. -/
inductive Refusal where
  /-- Raised by an arm of `exec` whose instruction is not modelled; no arm is left so. Safe. -/
  | notModelled (mnemonic : String)
  deriving DecidableEq, Repr

/-- What a step or an instruction answers. -/
abbrev Result := Host.Outcome State Fault Refusal

/-! ### Reset -/

/-- The machine right after `Reset` (10_state.md R23; 70_reset_and_hazards.md R170), with nothing listed in memory, so that
MEM[0..79] reads as FONT's default and MEM[80..4095] as MEM_FILL's default 0 (log 6, 7). For any font and any fill the state
after `Reset` is `resetMachine font fill s`. -/
def State.reset : State where
  v := Vector.replicate 16 0
  i := 0
  pc := 0x200
  sp := 0
  stk := Vector.replicate 16 0
  dt := 0
  st := 0
  mem := []
  fault := .none
  display := Display.blank
  oracle := []
  stepCount := 0
  events := []

end Sys2Proof.Machine
end

