-- ==== Sys2Proof/Machine/Memory.lean ====
section
/-! DEFINITION. The memory image (20_memory.md): the font, what an unlisted address reads as, reading and writing a byte, runs of
bytes, and the canonical form. -/

namespace Sys2Proof.Machine

/-! ### What an unlisted address reads as -/

/-- Glyphs 0 to 7 of the default font (10_state.md R25). -/
def fontLow : List Byte :=
  [0xF0, 0x90, 0x90, 0x90, 0xF0,  0x20, 0x60, 0x20, 0x20, 0x70,
   0xF0, 0x10, 0xF0, 0x80, 0xF0,  0xF0, 0x10, 0xF0, 0x10, 0xF0,
   0x90, 0x90, 0xF0, 0x10, 0x10,  0xF0, 0x80, 0xF0, 0x10, 0xF0,
   0xF0, 0x80, 0xF0, 0x90, 0xF0,  0xF0, 0x10, 0x20, 0x40, 0x40]

/-- Glyphs 8 to F of the default font (10_state.md R25). -/
def fontHigh : List Byte :=
  [0xF0, 0x90, 0xF0, 0x90, 0xF0,  0xF0, 0x90, 0xF0, 0x10, 0xF0,
   0xF0, 0x90, 0xF0, 0x90, 0x90,  0xE0, 0x90, 0xE0, 0x90, 0xE0,
   0xF0, 0x80, 0x80, 0x80, 0xF0,  0xE0, 0x90, 0x90, 0x90, 0xE0,
   0xF0, 0x80, 0xF0, 0x80, 0xF0,  0xF0, 0x80, 0xF0, 0x80, 0x80]

/-- The default of FONT, 80 bytes, glyph g at 5g (10_state.md R25). PRESUMED: the spec's default, from general knowledge;
unsafe (log 6). -/
def fontTable : List Byte := fontLow ++ fontHigh

/-- FONT, the 80 bytes installed at 0 to 79: a parameter of the machine (10_state.md R25, decision D12). -/
abbrev Font := Vector Byte 80

/-- The default of the parameter FONT. -/
def defaultFont : Font := ⟨fontTable.toArray, rfl⟩

/-- What an address reads as when memory lists nothing for it: the reset contents under the defaults of both parameters,
the font above at 0 to 79 (10_state.md R23) and the fill 0 from 80 on. Another font or fill is listed where it differs.
DESIGN CHOICE, unsafe (log 6, 7). -/
def Memory.unlisted (a : Nat) : Byte := fontTable.getD a 0

/-! ### One byte -/

/-- MEM[a] (20_memory.md R33, less the bounds check). -/
def Memory.read : Memory → Nat → Byte
  | [], a => Memory.unlisted a
  | (k, b) :: m, a => if a = k then b else Memory.read m a

/-- MEM[a] <- b (20_memory.md R35, less the bounds check), keeping the canonical form: writing what an unlisted address
reads as leaves no entry. -/
def Memory.write : Memory → Nat → Byte → Memory
  | [], a, b => if b = Memory.unlisted a then [] else [(a, b)]
  | (k, c) :: m, a, b =>
    if a < k then
      if b = Memory.unlisted a then (k, c) :: m else (a, b) :: (k, c) :: m
    else if a = k then
      if b = Memory.unlisted a then m else (a, b) :: m
    else (k, c) :: Memory.write m a b

/-! ### A run of bytes -/

/-- Store bytes at ascending addresses from `a` (20_memory.md R37, R39). -/
def Memory.storeBytes (m : Memory) (a : Nat) : List Byte → Memory
  | [] => m
  | b :: bs => Memory.storeBytes (m.write a b) (a + 1) bs

/-- The `n` bytes at ascending addresses from `a` (20_memory.md R37, R39). -/
def Memory.loadBytes (m : Memory) (a n : Nat) : List Byte :=
  (List.range n).map fun k => m.read (a + k)

/-! ### What Reset leaves -/

/-- The memory after `Reset`: FONT at 0 to 79, and from 80 on the bytes of MEM_FILL in rising order of address; where they
run short the default 0 stands (10_state.md R23; 70_reset_and_hazards.md R170). -/
def resetMemory (font : Font) (fill : List Byte) : Memory :=
  (Memory.storeBytes [] 0 font.toList).storeBytes 80 (fill.take 4016)

/-! ### The canonical form -/

/-- Entries at addresses from `lo` on, strictly rising, at most 0xFFF, none equal to what the address reads as unlisted. -/
def Memory.wfFrom (lo : Nat) : Memory → Bool
  | [] => true
  | (k, b) :: m => decide (lo ≤ k) && decide (k ≤ 0xFFF) && decide (b ≠ Memory.unlisted k) && Memory.wfFrom (k + 1) m

/-- The canonical form of memory, so that equal memories are equal data. -/
def Memory.wf (m : Memory) : Bool := Memory.wfFrom 0 m

end Sys2Proof.Machine
end

