-- ==== Sys2Proof/Machine/Ops.lean ====
section
/-! DEFINITION. The named operations over the state: registers, program counter, stack, faults, events, the boundary
inputs, the reference Display, instruction fetch. -/

namespace Sys2Proof.Machine

/-! ### Registers (10_state.md R10, R11) -/

/-- V[x]. -/
def State.reg (s : State) (x : RegIdx) : Byte := s.v[x.toNat]'x.isLt

/-- V[x] <- b. -/
def State.setReg (s : State) (x : RegIdx) (b : Byte) : State := { s with v := s.v.set x.toNat b x.isLt }

/-- I <- w (10_state.md R16). -/
def State.setIndex (s : State) (w : Word) : State := { s with i := w }

/-- DT <- b (10_state.md R18). -/
def State.setDelay (s : State) (b : Byte) : State := { s with dt := b }

/-- ST <- b (10_state.md R19). -/
def State.setSound (s : State) (b : Byte) : State := { s with st := b }

/-! ### Program counter (10_state.md R13, R14) -/

/-- PC <- target. -/
def State.jump (s : State) (target : Word) : State := { s with pc := target }

/-- PC <- pc0 + 2. -/
def State.advance (s : State) : State := s.jump (s.pc + 2)

/-- PC <- pc0 + 4 if the condition holds, else pc0 + 2. -/
def State.skipIf (s : State) (c : Bool) : State := s.jump (if c then s.pc + 4 else s.pc + 2)

/-! ### Events -/

/-- Let a value or signal leave the core (60_exceptions.md R163). -/
def State.emit (s : State) (e : Event) : State := { s with events := e :: s.events }

/-! ### Taking a fault (60_exceptions.md R140, R141) -/

/-- The value of the FAULT cell that a fault leaves. -/
def FaultReport.cell : FaultReport → FaultCell
  | .stackOverflow => .stackOverflow
  | .stackUnderflow => .stackUnderflow
  | .addressOutOfRange _ => .addressOutOfRange
  | .keyIndexOutOfRange _ => .keyIndexOutOfRange

/-- The code of a cell's value (60_exceptions.md R140, decision D4; log 33). -/
def FaultCell.code : FaultCell → Nat
  | .none => 0
  | .stackOverflow => 1
  | .stackUnderflow => 2
  | .addressOutOfRange => 3
  | .keyIndexOutOfRange => 4

/-- Raise a fatal fault: no architectural state changes but the FAULT cell, PC stays at the faulting instruction, and the
fault and its value are made visible to the host (60_exceptions.md R141). There is no handler and no return. -/
def State.raise (s : State) (r : FaultReport) : State := { s.emit (.faultReport r) with fault := r.cell }

/-! ### Return stack (10_state.md R17) -/

/-- STK[k], for k in 0..15. -/
def State.slot (s : State) (k : Nat) : Word := s.stk[k]?.getD 0

/-- STK[SP] <- w, then SP <- SP + 1. Called with SP < 16. -/
def State.push (s : State) (w : Word) : State :=
  { s with stk := s.stk.setIfInBounds s.sp.val w, sp := s.sp + 1 }

/-- SP <- SP - 1; the value popped is then `slot SP`. Called with SP > 0. The slot keeps its content. -/
def State.dropTop (s : State) : State := { s with sp := s.sp - 1 }

/-! ### Boundary inputs of a Step (60_exceptions.md R161, R162) -/

/-- What the host supplies to the coming Step: the oldest input lined up, or free values where none is. -/
def State.input (s : State) : StepInput :=
  match s.oracle with
  | inp :: _ => inp
  | [] => ⟨Config.keys s.stepCount, Config.randomByte s.stepCount, Config.keyPick s.stepCount⟩

/-- `Input.isPressed(k)` for a key number 0 to 15 (60_exceptions.md R160). -/
def StepInput.isPressed (inp : StepInput) (k : Nat) : Bool := inp.keys.getLsbD k

/-- The pressed keys in ascending order (46_f_family.md R122). -/
def StepInput.pressed (inp : StepInput) : List Nat := (List.range 16).filter inp.isPressed

/-- The key that `Fx0A` takes: some pressed key, none when no key is pressed (46_f_family.md R122, decision D6). -/
def StepInput.chosenKey (inp : StepInput) : Option Nat :=
  inp.pressed[inp.pick.toNat % inp.pressed.length]?

/-- The end of a Step: its input is used up, and the next Step's is a fresh one (60_exceptions.md R161). -/
def State.endStep (s : State) : State := { s with oracle := s.oracle.tail, stepCount := s.stepCount + 1 }

/-- A Step's answer, with its input used up. -/
def finishStep : Result → Result
  | .next s => .next s.endStep
  | .fault r => .fault r
  | .refused r => .refused r

/-! ### The reference Display (60_exceptions.md R156 to R158) -/

/-- PIX[cx mod 64][cy mod 32]. -/
def Display.pixel (d : Display) (cx cy : Nat) : Bool :=
  (d[cy % 32]'(Nat.mod_lt _ (by decide)))[cx % 64]'(Nat.mod_lt _ (by decide))

/-- PIX[cx mod 64][cy mod 32] <- its value xor 1. -/
def Display.flip (d : Display) (cx cy : Nat) : Display :=
  d.set (cy % 32)
    ((d[cy % 32]'(Nat.mod_lt _ (by decide))).set (cx % 64) (!d.pixel cx cy) (Nat.mod_lt _ (by decide)))
    (Nat.mod_lt _ (by decide))

/-- XOR-plot one bit of a sprite at a wrapped coordinate; the flag collects collisions: a lit pixel turned off. -/
def Display.plotBit (acc : Display × Bool) (cx cy : Nat) (bit : Bool) : Display × Bool :=
  if bit then (acc.1.flip cx cy, acc.2 || acc.1.pixel cx cy) else acc

/-- XOR-plot the columns 0 to 7 of one sprite row; column c is bit 7 - c. PRESUMED: bit 7 is the leftmost column (R157,
decision D19; log 9). -/
def Display.plotRow (acc : Display × Bool) (x y : Nat) (row : Byte) : Display × Bool :=
  (List.range 8).foldl (fun acc c => Display.plotBit acc (x + c) y (row.getLsbD (7 - c))) acc

/-- XOR-plot the rows of a sprite, each below the one before. -/
def Display.plotRows (acc : Display × Bool) (x y : Nat) : List Byte → Display × Bool
  | [] => acc
  | row :: rows => Display.plotRows (Display.plotRow acc x y row) x (y + 1) rows

/-- `Display.draw(x, y, rows) -> collision`. -/
def Display.draw (d : Display) (x y : Byte) (rows : List Byte) : Display × Bool :=
  Display.plotRows (d, false) x.toNat y.toNat rows

/-- The core commands `Display.clear()`. -/
def State.clearDisplay (s : State) : State := { s.emit .displayClear with display := Display.blank }

/-- The core commands `Display.draw(x, y, rows)`; the collision bit comes back through `Display.draw`. -/
def State.drawDisplay (s : State) (x y : Byte) (rows : List Byte) : State :=
  { s.emit (.displayDraw x y rows) with display := (s.display.draw x y rows).1 }

/-! ### Memory and fetch (20_memory.md R33, R34) -/

/-- `MemRead(addr, 1)`: the byte, or the fault that an address above 0xFFF raises. -/
def State.memRead (s : State) (a : Nat) : Except FaultReport Byte :=
  if a > 0xFFF then .error (.addressOutOfRange a) else .ok (s.mem.read a)

/-- `MemRead(pc0, 2)`: the opcode at PC, big-endian, or the fault its first invalid byte raises. -/
def State.fetch (s : State) : Except FaultReport Word :=
  match s.memRead s.pc.toNat with
  | .error r => .error r
  | .ok b0 =>
    match s.memRead (s.pc.toNat + 1) with
    | .error r => .error r
    | .ok b1 => .ok (wordOfBytes b0 b1)

/-- MEM[a], MEM[a+1], ... <- bytes. -/
def State.store (s : State) (a : Nat) (bytes : List Byte) : State := { s with mem := s.mem.storeBytes a bytes }

/-- Lay an opcode's two bytes out where the next Step fetches it, and let that Step be enabled. Where PC leaves no room
below 0x1000 there is no such place, and memory stays. -/
def State.placeWord (s : State) (op : Word) : State :=
  { (if s.pc.toNat ≤ 0xFFE then s.store s.pc.toNat (bytesOfWord op) else s) with fault := .none }

end Sys2Proof.Machine
end

