-- ==== Sys2Proof/Machine/Flags.lean ====
section
/-! DEFINITION. The flag register VF and the values written to it (10_state.md R12). -/

namespace Sys2Proof.Machine

/-- VF is V[15]. -/
def vf : RegIdx := 15

/-- A flag as the number 0 or 1. -/
def flagByte (c : Bool) : Byte := if c then 1 else 0

/-- V[15] <- c ? 1 : 0. -/
def State.setFlag (s : State) (c : Bool) : State := s.setReg vf (flagByte c)

/-- Carry of an addition: the true sum exceeds 255 (43_alu.md R95). -/
def addCarry (a b : Byte) : Bool := decide (a.toNat + b.toNat > 255)

/-- No borrow in `a - b`: a >= b (43_alu.md R96, R98). -/
def noBorrow (a b : Byte) : Bool := decide (a.toNat ≥ b.toNat)

/-- The bit shifted out to the right: bit 0 (43_alu.md R97). -/
def shiftedOutRight (a : Byte) : Bool := a.getLsbD 0

/-- The bit shifted out to the left: bit 7 (43_alu.md R99). -/
def shiftedOutLeft (a : Byte) : Bool := a.getLsbD 7

end Sys2Proof.Machine
end

