-- ==== Sys2Proof/Machine/Operands.lean ====
section
/-! DEFINITION. The operand forms (30_encoding.md R53): immediates widened with zeros, the computed jump target, the runs
of memory at I (20_memory.md R32, R36), and the register range V[0..x]. -/

namespace Sys2Proof.Machine

/-- `nnn` as an address: zero-extended to 16 bits (30_encoding.md R53). -/
def addrOfNnn (nnn : Addr12) : Word := nnn.setWidth 16

/-- A register's byte in 16-bit arithmetic: zero-extended (00_scope.md section 6). -/
def wordOfByte (b : Byte) : Word := b.setWidth 16

/-- The number of a sprite's rows (45_draw_key.md R113). -/
def rowCount (n : Nibble) : Nat := n.toNat

/-- How many registers V[0..x] are (46_f_family.md R128, R129). -/
def regCount (x : RegIdx) : Nat := x.toNat + 1

/-- The check of a run of `len` bytes at I: "first checks the highest address", on unbounded naturals, and reports the
lowest invalid one; a run of no bytes touches no address (20_memory.md R32, R36). -/
def State.runFault (s : State) (len : Nat) : Option FaultReport :=
  if 0 < len ∧ s.i.toNat + (len - 1) > 0xFFF then some (.addressOutOfRange (max s.i.toNat 0x1000)) else none

/-- The bytes of a run at I. -/
def State.runBytes (s : State) (len : Nat) : List Byte := s.mem.loadBytes s.i.toNat len

/-- Store a run at I. -/
def State.storeRun (s : State) (bytes : List Byte) : State := s.store s.i.toNat bytes

/-- V[0], .., V[x] (46_f_family.md R128). -/
def State.regsUpTo (s : State) (x : RegIdx) : List Byte :=
  (List.range (regCount x)).map fun k => s.reg (BitVec.ofNat 4 k)

/-- V[k] <- the byte at I + k, for k in 0..x; the registers above Vx keep their values (46_f_family.md R129). -/
def State.loadRegsUpTo (s : State) (x : RegIdx) : State :=
  { s with v := Vector.ofFn fun k : Fin 16 => if k.val ≤ x.toNat then s.mem.read (s.i.toNat + k.val) else s.v[k.val] }

/-- The decimal digits of a byte, hundreds first (46_f_family.md R127). -/
def bcdDigits (b : Byte) : List Byte := [b / 100, (b / 10) % 10, b % 10]

/-- The address of the glyph numbered by a byte: five bytes each, the whole byte used (46_f_family.md R126, decision D27). -/
def glyphAddr (b : Byte) : Word := wordOfByte b * 5

end Sys2Proof.Machine
end

