-- ==== Sys2Proof/Machine/Alu.lean ====
section
/-! DEFINITION. Family 8: move, logic, arithmetic and shifts between registers (43_alu.md R90 to R99). In each, the
operands are read first and the writes follow in the order of the rule's statements; the order shows only when x = 0xF
(R90, decision D8; log 13). -/

namespace Sys2Proof.Machine

/-- LD Vx, Vy (R91). -/
def execLdReg (x y : RegIdx) (s : State) : Result := .next (s.setReg x (s.reg y)).advance

/-- OR Vx, Vy (R92); VF keeps its value. -/
def execOrReg (x y : RegIdx) (s : State) : Result := .next (s.setReg x (s.reg x ||| s.reg y)).advance

/-- AND Vx, Vy (R93); VF keeps its value. -/
def execAndReg (x y : RegIdx) (s : State) : Result := .next (s.setReg x (s.reg x &&& s.reg y)).advance

/-- XOR Vx, Vy (R94); VF keeps its value. -/
def execXorReg (x y : RegIdx) (s : State) : Result := .next (s.setReg x (s.reg x ^^^ s.reg y)).advance

/-- ADD Vx, Vy (R95): the sum, then VF = carry. -/
def execAddReg (x y : RegIdx) (s : State) : Result :=
  .next ((s.setReg x (s.reg x + s.reg y)).setFlag (addCarry (s.reg x) (s.reg y))).advance

/-- SUB Vx, Vy (R96): the difference Vx - Vy, then VF = no borrow. -/
def execSubReg (x y : RegIdx) (s : State) : Result :=
  .next ((s.setReg x (s.reg x - s.reg y)).setFlag (noBorrow (s.reg x) (s.reg y))).advance

/-- The second statement of a shift to the right: Vx >>= 1 on the register file as it stands (R97). -/
def State.shiftRegRight (s : State) (x : RegIdx) : State := s.setReg x (s.reg x >>> 1)

/-- The second statement of a shift to the left: Vx <<= 1 on the register file as it stands (R99, decision D9). -/
def State.shiftRegLeft (s : State) (x : RegIdx) : State := s.setReg x (s.reg x <<< 1)

/-- SHR Vx (R97): VF = bit 0 of Vx, then Vx >>= 1; Vy is not used (decision D28). -/
def execShr (x : RegIdx) (s : State) : Result :=
  .next ((s.setFlag (shiftedOutRight (s.reg x))).shiftRegRight x).advance

/-- SUBN Vx, Vy (R98): the difference Vy - Vx to Vx, then VF = no borrow. -/
def execSubn (x y : RegIdx) (s : State) : Result :=
  .next ((s.setReg x (s.reg y - s.reg x)).setFlag (noBorrow (s.reg y) (s.reg x))).advance

/-- SHL Vx (R99): VF = bit 7 of Vx as 0 or 1, then Vx <<= 1; Vy is not used (decision D28). -/
def execShl (x : RegIdx) (s : State) : Result :=
  .next ((s.setFlag (shiftedOutLeft (s.reg x))).shiftRegLeft x).advance

end Sys2Proof.Machine
end

