-- ==== Sys2Proof/Machine/DrawKey.lean ====
section
/-! DEFINITION. Families D, E: draw sprite, skip on key (45_draw_key.md R113 to R115). -/

namespace Sys2Proof.Machine

/-- The effect of DRW once its run of n bytes is known to be valid: the coordinates and rows are read, the Display draws,
VF takes the collision bit (R113). -/
def State.drawSprite (s : State) (x y : RegIdx) (n : Nibble) : State :=
  (s.drawDisplay (s.reg x) (s.reg y) (s.runBytes (rowCount n))).setFlag
    (s.display.draw (s.reg x) (s.reg y) (s.runBytes (rowCount n))).2

/-- DRW Vx, Vy, n (R113). -/
def execDrw (x y : RegIdx) (n : Nibble) (s : State) : Result :=
  .next (match s.runFault (rowCount n) with
    | some r => s.raise r
    | none => (s.drawSprite x y n).advance)

/-- The whole byte Vx is the key number; above 15 KeyIndexOutOfRange (R114, R115; 60_exceptions.md R145). -/
def keyFault (k : Byte) : Option FaultReport :=
  if k.toNat > 15 then some (.keyIndexOutOfRange k) else none

/-- SKP Vx (R114). -/
def execSkp (x : RegIdx) (s : State) : Result :=
  .next (match keyFault (s.reg x) with
    | some r => s.raise r
    | none => s.skipIf (s.input.isPressed (s.reg x).toNat))

/-- SKNP Vx (R115). -/
def execSknp (x : RegIdx) (s : State) : Result :=
  .next (match keyFault (s.reg x) with
    | some r => s.raise r
    | none => s.skipIf (!s.input.isPressed (s.reg x).toNat))

end Sys2Proof.Machine
end

