-- ==== Sys2Proof/Machine/FFamily.lean ====
section
/-! DEFINITION. Family F: timers, key wait, index arithmetic, BCD, register dump and load (46_f_family.md R121 to R129). -/

namespace Sys2Proof.Machine

/-- LD Vx, DT (R121). -/
def execLdVxDt (x : RegIdx) (s : State) : Result := .next (s.setReg x s.dt).advance

/-- LD Vx, K (R122): with no key pressed nothing changes and the same instruction is fetched again; otherwise some pressed
key's number. -/
def execLdVxK (x : RegIdx) (s : State) : Result :=
  .next (match s.input.chosenKey with
    | none => s
    | some k => (s.setReg x (BitVec.ofNat 8 k)).advance)

/-- LD DT, Vx (R123). -/
def execLdDtVx (x : RegIdx) (s : State) : Result := .next (s.setDelay (s.reg x)).advance

/-- LD ST, Vx (R124): no silence event, whatever is written. -/
def execLdStVx (x : RegIdx) (s : State) : Result := .next (s.setSound (s.reg x)).advance

/-- ADD I, Vx (R125): modulo 65536, no flag. -/
def execAddI (x : RegIdx) (s : State) : Result := .next (s.setIndex (s.i + wordOfByte (s.reg x))).advance

/-- LD F, Vx (R126). -/
def execLdF (x : RegIdx) (s : State) : Result := .next (s.setIndex (glyphAddr (s.reg x))).advance

/-- LD B, Vx (R127): three digits at I; nothing is written if the run is not all valid. -/
def execLdB (x : RegIdx) (s : State) : Result :=
  .next (match s.runFault 3 with
    | some r => s.raise r
    | none => (s.storeRun (bcdDigits (s.reg x))).advance)

/-- LD [I], Vx (R128): V[0..x] to the run at I, which I still points to afterwards. -/
def execStRegs (x : RegIdx) (s : State) : Result :=
  .next (match s.runFault (regCount x) with
    | some r => s.raise r
    | none => (s.storeRun (s.regsUpTo x)).advance)

/-- LD Vx, [I] (R129): V[0..x] from the run at I, which I still points to afterwards. -/
def execLdRegs (x : RegIdx) (s : State) : Result :=
  .next (match s.runFault (regCount x) with
    | some r => s.raise r
    | none => (s.loadRegsUpTo x).advance)

end Sys2Proof.Machine
end

