-- ==== Sys2Proof/Machine/Flow.lean ====
section
/-! DEFINITION. Families 0, 1, 2 and the unimplemented words: clear screen, return, jump, call, the logged no-op
(40_flow.md R70 to R73; 30_encoding.md R61). -/

namespace Sys2Proof.Machine

/-- CLS (R70). -/
def execCls (s : State) : Result := .next s.clearDisplay.advance

/-- RET (R71): the popped value is the new PC, with no further +2; with SP = 0 StackUnderflow (60_exceptions.md R143). -/
def execRet (s : State) : Result :=
  .next (if s.sp = 0 then s.raise .stackUnderflow
    else s.dropTop.jump (s.dropTop.slot s.dropTop.sp.val))

/-- JP nnn (R72). -/
def execJp (nnn : Addr12) (s : State) : Result := .next (s.jump (addrOfNnn nnn))

/-- CALL nnn (R73): the address after the call is pushed; with SP = 16 StackOverflow (60_exceptions.md R142). -/
def execCall (nnn : Addr12) (s : State) : Result :=
  .next (if s.sp = 16 then s.raise .stackOverflow
    else (s.push (s.pc + 2)).jump (addrOfNnn nnn))

/-- An unimplemented word (30_encoding.md R61): the diagnostic with the word and its address (60_exceptions.md R146), and
PC + 2. -/
def execUnimpl (op : Word) (s : State) : Result := .next (s.emit (.unimplementedOpcode op s.pc)).advance

end Sys2Proof.Machine
end

