-- ==== Sys2Proof/Machine/Imm.lean ====
section
/-! DEFINITION. Families 6, 7: load immediate, add immediate (42_imm.md R85, R86). -/

namespace Sys2Proof.Machine

/-- LD Vx, nn (R85). -/
def execLdImm (x : RegIdx) (nn : Byte) (s : State) : Result := .next (s.setReg x nn).advance

/-- ADD Vx, nn (R86): modulo 256, no flag. -/
def execAddImm (x : RegIdx) (nn : Byte) (s : State) : Result := .next (s.setReg x (s.reg x + nn)).advance

end Sys2Proof.Machine
end

