-- ==== Sys2Proof/Machine/Misc.lean ====
section
/-! DEFINITION. Families A, B, C: load index, jump with offset, random (44_misc.md R106 to R108). -/

namespace Sys2Proof.Machine

/-- LD I, nnn (R106). -/
def execLdI (nnn : Addr12) (s : State) : Result := .next (s.setIndex (addrOfNnn nnn)).advance

/-- JP V0, nnn (R107): always V[0]; the 16-bit sum is not masked. -/
def execJpV0 (nnn : Addr12) (s : State) : Result := .next (s.jump (addrOfNnn nnn + wordOfByte (s.reg 0)))

/-- RND Vx, nn (R108): the Step's random byte, masked. -/
def execRnd (x : RegIdx) (nn : Byte) (s : State) : Result := .next (s.setReg x (s.input.random &&& nn)).advance

end Sys2Proof.Machine
end

