-- ==== Sys2Proof/Machine/Step.lean ====
section
/-! DEFINITION. The action `Step` (30_encoding.md R65), and how an instruction is placed for the host's check. -/

namespace Sys2Proof.Machine

/-- One `Step`: enabled only while FAULT is None; fetch, decode, execute. A fetch that fails raises its fault; either way
the Step's boundary input is used up. -/
def step (s : State) : Host.Outcome State Fault Refusal :=
  match s.fault with
  | .none =>
    match s.fetch with
    | .ok op => finishStep (exec (decode op) s)
    | .error r => finishStep (.next (s.raise r))
  | .stackOverflow => .fault (.stopped .stackOverflow)
  | .stackUnderflow => .fault (.stopped .stackUnderflow)
  | .addressOutOfRange => .fault (.stopped .addressOutOfRange)
  | .keyIndexOutOfRange => .fault (.stopped .keyIndexOutOfRange)

/-- The state with the instruction whose bits are `w` (bits above `nbits` zero) placed at PC, where the next Step fetches
it. It stands for the host's `Load` of those two bytes (log 18). -/
def State.withFetchWord (s : State) (nbits w : Nat) : State := s.placeWord (BitVec.ofNat 16 (w % 2 ^ nbits))

end Sys2Proof.Machine
end

