-- ==== Sys2Proof/Machine/Actions.lean ====
section
/-! DEFINITION. The host's four atomic actions (00_scope.md R3) as one labelled transition system: `Reset` and `Load`
(70_reset_and_hazards.md R170, R173), `Step` (30_encoding.md R65), `Tick` (60_exceptions.md R150). -/

namespace Sys2Proof.Machine

/-! ### Tick (60_exceptions.md R150 to R152) -/

/-- A timer's move on a `Tick`: down by one, 0 stays 0. -/
def countDown (b : Byte) : Byte := if b = 0 then 0 else b - 1

/-- The output of a `Tick`: ST goes from non-zero to zero in it exactly when it is 1. -/
def State.silence (s : State) : Bool := s.st == 1

/-- `Tick`: both timers count down, and the silence event leaves the core when it is due. -/
def tick (s : State) : State :=
  let t := { s with dt := countDown s.dt, st := countDown s.st }
  if s.silence then t.emit .silence else t

/-! ### Reset (70_reset_and_hazards.md R170) -/

/-- `Reset`: the core's state as 10_state.md R23 gives it, for the machine's FONT (R25, decision D12) and with MEM_FILL
taken afresh (decision D13): `fill` holds the bytes of MEM[80..4095] in rising order. It puts out nothing (decision D25)
and does not touch the Display (decision D19); the model's own fields go on (log 38). -/
def resetMachine (font : Font) (fill : List Byte) (s : State) : State :=
  { State.reset with
    mem := resetMemory font fill
    display := s.display
    oracle := s.oracle
    stepCount := s.stepCount
    events := s.events }

/-! ### Load (70_reset_and_hazards.md R173) -/

/-- The longest program, 4096 - 0x200 bytes. -/
def maxProgram : Nat := 3584

/-- `Load(bytes)`: copy a program to 0x200; a longer one than fits is signalled and nothing of it is written. -/
def loadProgram (bytes : List Byte) (s : State) : State :=
  if bytes.length > maxProgram then s.emit .programTooLarge else s.store 0x200 bytes

/-! ### The transition system (00_scope.md R3) -/

/-- An action of the host, with the values it supplies (60_exceptions.md R163). A `reset` carries MEM_FILL, which is taken
afresh each time (decision D13); FONT is the same in every `Reset` of a machine, so `perform` carries it. -/
inductive HostAction where
  | reset (fill : List Byte)
  | load (bytes : List Byte)
  | step (inp : StepInput)
  | tick
  deriving DecidableEq, Repr

/-- One action of the machine whose FONT is `font` (10_state.md R25, decision D12; log 6). A `step` carries its boundary input, which takes the head of the line and is used up by it. -/
def perform (font : Font) (a : HostAction) (s : State) : Result :=
  match a with
  | .reset fill => .next (resetMachine font fill s)
  | .load bytes => .next (loadProgram bytes s)
  | .step inp => Sys2Proof.Machine.step { s with oracle := inp :: s.oracle }
  | .tick => .next (Sys2Proof.Machine.tick s)

/-- A sequence of actions of one machine, up to the first that is not enabled. -/
def performAll (font : Font) : List HostAction → State → Result
  | [], s => .next s
  | a :: as, s =>
    match perform font a s with
    | .next t => performAll font as t
    | .fault r => .fault r
    | .refused r => .refused r

end Sys2Proof.Machine
end

