-- ==== Sys2Proof/Safety.lean ====
section
/-! DEFINITION. What claims speak of: the invariant of every run, launch and finished states, the order in which the host
may act, and what a step leaves unchanged. -/

namespace Sys2Proof.Machine

/-! ### The invariant of every run -/

/-- What every run keeps: memory in its canonical form, PC at most 0x10FE, the largest value any instruction can produce
(10_state.md R15), and every stack slot at most 0x1000, the largest value a call can push (40_flow.md R71, R73). -/
abbrev State.Inv (s : State) : Prop :=
  s.mem.wf = true ∧ s.pc.toNat ≤ 0x10FE ∧ ∀ k : Fin 16, (s.stk[k.val]).toNat ≤ 0x1000

/-! ### Launch and finished states (70_reset_and_hazards.md R176, R178) -/

/-- The launch state of a program: `Reset` with the machine's font and some fill, then `Load`. -/
def State.launch (font : Font) (fill bytes : List Byte) (s : State) : State :=
  loadProgram bytes (resetMachine font fill s)

/-- A program is finished where FAULT is None and the word at PC is a jump to itself (R178, decision D21). -/
abbrev State.Finished (s : State) : Prop :=
  s.fault = .none ∧ s.pc.toNat ≤ 0xFFE ∧
    wordOfBytes (s.mem.read s.pc.toNat) (s.mem.read (s.pc.toNat + 1)) = 0x1000 + s.pc

/-! ### The order in which the host may act -/

/-- Where a run stands between two actions. -/
inductive HostPhase where
  /-- Before the first `Reset`: no action but `Reset` has meaning (10_state.md R24). -/
  | beforeReset
  /-- After `Reset`, with no program or with one loaded, before the first `Step` (70_reset_and_hazards.md R171, R175). -/
  | ready
  /-- After a failed `Load`: there is no launch state, the host must not `Step` (R174). -/
  | loadFailed
  /-- After the first `Step`: a `Load` now is given no use, and no claim is made of it (R180). -/
  | running
  deriving DecidableEq, Repr

/-- The phase after an action; `none` where the spec gives the action no meaning, makes no claim of it, or leaves it open and
the model makes no claim. DESIGN CHOICE, where 70_reset_and_hazards.md leaves the order open: after a failed `Load` no
retry without a `Reset` is claimed, and a `Tick` is allowed (R174 speaks of `Step` alone; log 41); between `Reset` and the
first `Step` any number of `Load`s is allowed, each over the one before (R175 names one successful `Load`, R180 only those
after the first `Step`; log 42). -/
def HostPhase.after : HostPhase → HostAction → Option HostPhase
  | _, .reset _ => some .ready
  | .beforeReset, .load _ => none
  | .beforeReset, .step _ => none
  | .beforeReset, .tick => none
  | .ready, .load bytes => some (if bytes.length > maxProgram then .loadFailed else .ready)
  | .ready, .step _ => some .running
  | .ready, .tick => some .ready
  | .loadFailed, .load _ => none
  | .loadFailed, .step _ => none
  | .loadFailed, .tick => some .loadFailed
  | .running, .load _ => none
  | .running, .step _ => some .running
  | .running, .tick => some .running

/-- A sequence of actions that the host may perform from a phase. -/
def HostPhase.allows : HostPhase → List HostAction → Bool
  | _, [] => true
  | p, a :: as =>
    match p.after a with
    | some q => q.allows as
    | none => false

/-! ### What is left unchanged -/

/-- The parts of the state beside the registers V and PC. -/
inductive Part where
  | index | stack | delay | sound | memory | faultCell | display | events | inputs
  deriving DecidableEq, Repr

/-- A part is the same in two states; memory means every address reads as before. -/
def Part.same : Part → State → State → Prop
  | .index, s, t => t.i = s.i
  | .stack, s, t => t.sp = s.sp ∧ ∀ k, t.slot k = s.slot k
  | .delay, s, t => t.dt = s.dt
  | .sound, s, t => t.st = s.st
  | .memory, s, t => ∀ a, t.mem.read a = s.mem.read a
  | .faultCell, s, t => t.fault = s.fault
  | .display, s, t => t.display = s.display
  | .events, s, t => t.events = s.events
  | .inputs, s, t => t.oracle = s.oracle ∧ t.stepCount = s.stepCount

/-- From `s` to `t` every register outside `regs` and every part outside `parts` is unchanged; PC may change. -/
def Frame (regs : List RegIdx) (parts : List Part) (s t : State) : Prop :=
  (∀ r, r ∉ regs → t.reg r = s.reg r) ∧ ∀ p, p ∉ parts → p.same s t

/-- The faulting step is precise: nothing changes but the FAULT cell and the report to the host (60_exceptions.md R141). -/
def RaisesOnly (r : FaultReport) (s t : State) : Prop :=
  t.fault = r.cell ∧ t.events = .faultReport r :: s.events ∧ t.pc = s.pc ∧ Frame [] [.faultCell, .events] s t

/-! ### What each instruction may write -/

/-- The registers V an instruction may write (10_state.md R12 and the summary table of its section 12). -/
def regsWritten : Instr → List RegIdx
  | .cls => []
  | .ret => []
  | .jp _ => []
  | .call _ => []
  | .seImm _ _ => []
  | .sneImm _ _ => []
  | .seReg _ _ => []
  | .ldImm x _ => [x]
  | .addImm x _ => [x]
  | .ldReg x _ => [x]
  | .orReg x _ => [x]
  | .andReg x _ => [x]
  | .xorReg x _ => [x]
  | .addReg x _ => [x, vf]
  | .subReg x _ => [x, vf]
  | .shr x => [x, vf]
  | .subn x _ => [x, vf]
  | .shl x => [x, vf]
  | .sneReg _ _ => []
  | .ldI _ => []
  | .jpV0 _ => []
  | .rnd x _ => [x]
  | .drw _ _ _ => [vf]
  | .skp _ => []
  | .sknp _ => []
  | .ldVxDt x => [x]
  | .ldVxK x => [x]
  | .ldDtVx _ => []
  | .ldStVx _ => []
  | .addI _ => []
  | .ldF _ => []
  | .ldB _ => []
  | .stRegs _ => []
  | .ldRegs x => (List.range (x.toNat + 1)).map (BitVec.ofNat 4)
  | .unimpl _ => []

/-- The other parts of the state an instruction may write (10_state.md section 12; 60_exceptions.md R140, R163). -/
def partsWritten : Instr → List Part
  | .cls => [.display, .events]
  | .ret => [.stack, .faultCell, .events]
  | .jp _ => []
  | .call _ => [.stack, .faultCell, .events]
  | .seImm _ _ => []
  | .sneImm _ _ => []
  | .seReg _ _ => []
  | .ldImm _ _ => []
  | .addImm _ _ => []
  | .ldReg _ _ => []
  | .orReg _ _ => []
  | .andReg _ _ => []
  | .xorReg _ _ => []
  | .addReg _ _ => []
  | .subReg _ _ => []
  | .shr _ => []
  | .subn _ _ => []
  | .shl _ => []
  | .sneReg _ _ => []
  | .ldI _ => [.index]
  | .jpV0 _ => []
  | .rnd _ _ => []
  | .drw _ _ _ => [.display, .faultCell, .events]
  | .skp _ => [.faultCell, .events]
  | .sknp _ => [.faultCell, .events]
  | .ldVxDt _ => []
  | .ldVxK _ => []
  | .ldDtVx _ => [.delay]
  | .ldStVx _ => [.sound]
  | .addI _ => [.index]
  | .ldF _ => [.index]
  | .ldB _ => [.memory, .faultCell, .events]
  | .stRegs _ => [.memory, .faultCell, .events]
  | .ldRegs _ => [.faultCell, .events]
  | .unimpl _ => [.events]

/-! ### Vocabulary of the statements -/

/-- Every word that a mask and match select decodes to the instruction that `mk` reads from it (30_encoding.md R60). -/
def EncodedAs (mask value : Word) (mk : Word → Instr) : Prop := ∀ op : Word, op &&& mask = value → decode op = mk op

/-- Instructions executed one after another, as far as each answers a next state. -/
def execAll : List Instr → State → Result
  | [], s => .next s
  | i :: is, s =>
    match exec i s with
    | .next t => execAll is t
    | .fault r => .fault r
    | .refused r => .refused r

/-- Whether a sprite drawn at (x, y) has a set bit on the pixel (cx, cy) of the 64 by 32 grid: column and row are counted
from the sprite's corner, modulo the grid (60_exceptions.md R157). -/
def Display.covers (rows : List Byte) (x y : Byte) (cx cy : Nat) : Bool :=
  let column := (cx + 64 - x.toNat % 64) % 64
  let row := (cy + 32 - y.toNat % 32) % 32
  decide (column < 8) && (rows[row]?.getD 0).getLsbD (7 - column)

end Sys2Proof.Machine
end

