-- ==== Sys2Proof/Certificates/Slice0/Obligations.lean ====
section
/-! DEFINITION. The statements for the provers, from the spec's numbered rules. A docstring names the rules a statement
formalises, and where a clause rests on a decision the spec marks as its own (92_eei_decisions.md) it names it. -/

open Sys2Proof Sys2Proof.Machine

/-! ### Encoding and decoding -/

/-- One word of each family, written out from the patterns of 30_encoding.md R60. -/
def Obligations.DecodesWordsOfEachFamily : Prop :=
  decode 0x00E0 = .cls ∧ decode 0x00EE = .ret ∧ decode 0x1234 = .jp 0x234 ∧ decode 0x2FED = .call 0xFED ∧
  decode 0x3A7F = .seImm 0xA 0x7F ∧ decode 0x4380 = .sneImm 0x3 0x80 ∧ decode 0x5120 = .seReg 0x1 0x2 ∧
  decode 0x6F01 = .ldImm 0xF 0x01 ∧ decode 0x70FF = .addImm 0x0 0xFF ∧ decode 0x8AB5 = .subReg 0xA 0xB ∧
  decode 0x9340 = .sneReg 0x3 0x4 ∧ decode 0xA2F0 = .ldI 0x2F0 ∧ decode 0xB300 = .jpV0 0x300 ∧
  decode 0xC10F = .rnd 0x1 0x0F ∧ decode 0xD125 = .drw 0x1 0x2 0x5 ∧ decode 0xE79E = .skp 0x7 ∧
  decode 0xF255 = .stRegs 0x2 ∧ decode 0x8128 = .unimpl 0x8128

/-- Decoding the canonical word, or the canonical bytes followed by any others, of a well-formed instruction gives the
instruction back (30_encoding.md R50, R60, R61): no bit of an encoding is dropped. How the canonical word spells ignored
fields (R64) is the spec's decision D20 (log 17). -/
def Obligations.DecodeOfEncodeIsTheInstruction : Prop :=
  ∀ i : Instr, i.wf = true →
    decode (encode i) = i ∧ ∀ rest : List Byte, decodeBytes (encodeBytes i ++ rest) = .ok (i, rest)

/-- Decoding is total, gives a well-formed instruction, and gives the unimplemented one exactly on the words that
30_encoding.md R61 lists (R61, R62). -/
def Obligations.DecodedInstructionsAreWellFormed : Prop :=
  ∀ op : Word, (decode op).wf = true ∧ (decode op = .unimpl op ↔ op.unimplemented = true)

/-- The opcode map of 30_encoding.md R60: its rows are mutually exclusive, a row selects exactly the words that decode to
its instruction, and a word that no row selects is unimplemented. That rows 1, 2, 7 and 19 leave fields out of
their masks is the spec's reading N3 (R55) and decision D24 (log 39, 14). -/
def Obligations.OpcodeMapSelectsTheDecodedRow : Prop :=
  (∀ op : Word, ∀ r ∈ opcodeMap, (r.selects op = true ↔ (decode op).rowNumber = some r.number)) ∧
  (∀ op : Word, ∀ r ∈ opcodeMap, ∀ q ∈ opcodeMap, r.selects op = true → q.selects op = true → r = q) ∧
  (∀ op : Word, (∀ r ∈ opcodeMap, r.selects op = false) ↔ decode op = .unimpl op)

/-- The ignored fields of 30_encoding.md R52, R55, R59 change nothing: x and y of CLS and RET, n of 5xy_ and 9xy_, y of
the shifts. That they are ignored is the spec's decision D24 (log 14). -/
def Obligations.IgnoredFieldsChangeNothing : Prop :=
  (∀ op : Word, op.hi = 0x0 → (op.n = 0x0 ∨ op.n = 0xE) → decode op = decode (op &&& 0xF00F)) ∧
  (∀ op : Word, (op.hi = 0x5 ∨ op.hi = 0x9) → decode op = decode (op &&& 0xFFF0)) ∧
  (∀ op : Word, op.hi = 0x8 → (op.n = 0x6 ∨ op.n = 0xE) → decode op = decode (op &&& 0xFF0F))

/-! ### The step -/

/-- When FAULT is None and the two bytes at PC, odd or even, decode to an instruction, a Step is the execution of it
(30_encoding.md R65; 20_memory.md R34). That an odd PC is fetched from like an even one is the spec's decision D15 (log 28).
The clause that `oracle` then loses its head and `stepCount` grows by one is the model's own accounting of the free inputs,
no rule of the spec: DESIGN CHOICE, log 2 and log 5. -/
def Obligations.StepRunsTheDecodedInstruction : Prop :=
  ∀ (s : State) (i : Instr), s.fault = .none → s.pc.toNat ≤ 0xFFE → i.wf = true →
    decodeBytes [s.mem.read s.pc.toNat, s.mem.read (s.pc.toNat + 1)] = .ok (i, []) →
    step s = finishStep (exec i s) ∧
      ∀ t, exec i s = .next t → step s = .next { t with oracle := t.oracle.tail, stepCount := t.stepCount + 1 }

/-- A fetch above 0xFFE raises AddressOutOfRange with the lowest invalid address, and nothing else of the core changes
(20_memory.md R34, the spec's decisions D2 and D3; log 11, log 1). -/
def Obligations.FetchBeyondMemoryFaults : Prop :=
  ∀ s : State, s.fault = .none → 0xFFE < s.pc.toNat →
    ∃ t, step s = .next t ∧ t.fault = .addressOutOfRange ∧
      t.events = .faultReport (.addressOutOfRange (if 0xFFF < s.pc.toNat then s.pc.toNat else 0x1000)) :: s.events ∧
      t.pc = s.pc ∧ Frame [] [.faultCell, .events, .inputs] s t

/-- A Step is enabled exactly while FAULT is None, and an enabled Step always reaches a next state: no bit pattern halts
the machine (30_encoding.md R61, R62; 10_state.md R20, decision D3; log 1). -/
def Obligations.StepIsEnabledExactlyWithoutFault : Prop :=
  ∀ s : State, (s.fault = .none → ∃ t, step s = .next t) ∧
    (s.fault ≠ .none → step s = .fault (.stopped s.fault))

/-- The word that `withFetchWord` places is the one the next Step runs (the model's interface; log 18). -/
def Obligations.PlacedWordIsRunNext : Prop :=
  ∀ (s : State) (op : Word), s.mem.wf = true → s.pc.toNat ≤ 0xFFE →
    step (s.withFetchWord 16 op.toNat) = finishStep (exec (decode op) (s.withFetchWord 16 op.toNat))

/-! ### Families 0, 1, 2 -/

/-- CLS (40_flow.md R70; 60_exceptions.md R156): the Display is commanded once, every pixel is off, and of the core only PC
changes. That its x and y are ignored is the spec's reading N3 (R55; log 39). -/
def Obligations.ClearScreen : Prop :=
  EncodedAs 0xF00F 0x0000 (fun _ => .cls) ∧
  ∀ s : State, ∃ t, exec .cls s = .next t ∧ t.pc = s.pc + 2 ∧ t.events = .displayClear :: s.events ∧
    (∀ cx cy, t.display.pixel cx cy = false) ∧ Frame [] [.display, .events] s t

/-- JP nnn (40_flow.md R72): PC is nnn, with no +2; a jump to its own address changes nothing. -/
def Obligations.JumpSetsPc : Prop :=
  EncodedAs 0xF000 0x1000 (fun op => .jp op.nnn) ∧
  ∀ (s : State) (nnn : Addr12),
    (∃ t, exec (.jp nnn) s = .next t ∧ t.pc.toNat = nnn.toNat ∧ Frame [] [] s t) ∧
    (s.pc.toNat = nnn.toNat → exec (.jp nnn) s = .next s)

/-- CALL nnn (40_flow.md R73; 60_exceptions.md R142): with SP < 16 the address after the call goes to STK[SP]; with SP = 16
StackOverflow, and nothing else changes. The slot used and the precise fault are the spec's decisions D16 and D3 (log 15,
log 1). -/
def Obligations.CallPushesTheAddressAfterIt : Prop :=
  EncodedAs 0xF000 0x2000 (fun op => .call op.nnn) ∧
  ∀ (s : State) (nnn : Addr12),
    (s.sp ≠ 16 → ∃ t, exec (.call nnn) s = .next t ∧ t.slot s.sp.val = s.pc + 2 ∧ t.sp.val = s.sp.val + 1 ∧
      (∀ k, k ≠ s.sp.val → t.slot k = s.slot k) ∧ t.pc.toNat = nnn.toNat ∧ Frame [] [.stack] s t) ∧
    (s.sp = 16 → ∃ t, exec (.call nnn) s = .next t ∧ RaisesOnly .stackOverflow s t)

/-- RET (40_flow.md R71; 60_exceptions.md R143): with SP > 0 the top address is the new PC and every slot keeps its
content; with SP = 0 StackUnderflow, and nothing else changes. The slots, the precise fault and the ignored x and y are the
spec's decisions D16 and D3 and its reading N3 (log 15, 1, 39). -/
def Obligations.ReturnPopsThePc : Prop :=
  EncodedAs 0xF00F 0x000E (fun _ => .ret) ∧
  ∀ s : State,
    (s.sp ≠ 0 → ∃ t, exec .ret s = .next t ∧ t.sp.val = s.sp.val - 1 ∧ t.pc = s.slot (s.sp.val - 1) ∧
      (∀ k, t.slot k = s.slot k) ∧ Frame [] [.stack] s t) ∧
    (s.sp = 0 → ∃ t, exec .ret s = .next t ∧ RaisesOnly .stackUnderflow s t)

/-- A call followed by a return resumes at exactly the instruction after the call, with the stack as it was but for the
stale slot (95_test_vectors.md S3; 40_flow.md R71, R73). That the slots below keep their place is decision D16 (log 15). -/
def Obligations.CallThenReturnResumes : Prop :=
  ∀ (s : State) (nnn : Addr12), s.sp ≠ 16 →
    ∃ t, execAll [.call nnn, .ret] s = .next t ∧ t.pc = s.pc + 2 ∧ t.sp = s.sp ∧
      (∀ k, k < s.sp.val → t.slot k = s.slot k) ∧ Frame [] [.stack] s t

/-- Nesting 16 calls succeeds and a 17th signals StackOverflow, whatever their targets (60_exceptions.md R142; S3). That the
fault changes nothing else is decision D3 (log 1). -/
def Obligations.SixteenCallsNestAndTheNextOverflows : Prop :=
  ∀ (s : State) (targets : List Addr12) (last : Addr12), s.sp = 0 → targets.length = 16 →
    ∃ t u, execAll (targets.map .call) s = .next t ∧ t.sp = 16 ∧ t.fault = s.fault ∧
      exec (.call last) t = .next u ∧ RaisesOnly .stackOverflow t u

/-! ### Families 3, 4, 5, 9 -/

/-- The four skips on registers (41_skip.md R80 to R82; 44_misc.md R105): PC + 4 when the condition holds, PC + 2
otherwise, and nothing else changes. That the low nibble of families 5 and 9 is ignored is the spec's decision D24 (log 14). -/
def Obligations.SkipsOnRegisters : Prop :=
  EncodedAs 0xF000 0x3000 (fun op => .seImm op.x op.nn) ∧ EncodedAs 0xF000 0x4000 (fun op => .sneImm op.x op.nn) ∧
  EncodedAs 0xF000 0x5000 (fun op => .seReg op.x op.y) ∧ EncodedAs 0xF000 0x9000 (fun op => .sneReg op.x op.y) ∧
  ∀ (s : State) (x y : RegIdx) (nn : Byte),
    (∃ t, exec (.seImm x nn) s = .next t ∧ t.pc = (if s.reg x = nn then s.pc + 4 else s.pc + 2) ∧ Frame [] [] s t) ∧
    (∃ t, exec (.sneImm x nn) s = .next t ∧ t.pc = (if s.reg x ≠ nn then s.pc + 4 else s.pc + 2) ∧ Frame [] [] s t) ∧
    (∃ t, exec (.seReg x y) s = .next t ∧ t.pc = (if s.reg x = s.reg y then s.pc + 4 else s.pc + 2) ∧ Frame [] [] s t) ∧
    (∃ t, exec (.sneReg x y) s = .next t ∧ t.pc = (if s.reg x ≠ s.reg y then s.pc + 4 else s.pc + 2) ∧ Frame [] [] s t)

/-! ### Families 6, 7 -/

/-- LD Vx, nn and ADD Vx, nn (42_imm.md R85, R86): the sum is taken modulo 256 and no flag is written. -/
def Obligations.LoadAndAddImmediate : Prop :=
  EncodedAs 0xF000 0x6000 (fun op => .ldImm op.x op.nn) ∧ EncodedAs 0xF000 0x7000 (fun op => .addImm op.x op.nn) ∧
  ∀ (s : State) (x : RegIdx) (nn : Byte),
    (∃ t, exec (.ldImm x nn) s = .next t ∧ t.reg x = nn ∧ t.pc = s.pc + 2 ∧ Frame [x] [] s t) ∧
    (∃ t, exec (.addImm x nn) s = .next t ∧ (t.reg x).toNat = ((s.reg x).toNat + nn.toNat) % 256 ∧ t.pc = s.pc + 2 ∧
      Frame [x] [] s t)

/-! ### Family 8 -/

/-- Move, Or, And, Xor (43_alu.md R91 to R94), bit by bit; VF keeps its value unless it is the destination. -/
def Obligations.MoveAndLogic : Prop :=
  EncodedAs 0xF00F 0x8000 (fun op => .ldReg op.x op.y) ∧ EncodedAs 0xF00F 0x8001 (fun op => .orReg op.x op.y) ∧
  EncodedAs 0xF00F 0x8002 (fun op => .andReg op.x op.y) ∧ EncodedAs 0xF00F 0x8003 (fun op => .xorReg op.x op.y) ∧
  ∀ (s : State) (x y : RegIdx),
    (∃ t, exec (.ldReg x y) s = .next t ∧ t.reg x = s.reg y ∧ t.pc = s.pc + 2 ∧ Frame [x] [] s t) ∧
    (∃ t, exec (.orReg x y) s = .next t ∧
      (∀ k, (t.reg x).getLsbD k = ((s.reg x).getLsbD k || (s.reg y).getLsbD k)) ∧ t.pc = s.pc + 2 ∧ Frame [x] [] s t) ∧
    (∃ t, exec (.andReg x y) s = .next t ∧
      (∀ k, (t.reg x).getLsbD k = ((s.reg x).getLsbD k && (s.reg y).getLsbD k)) ∧ t.pc = s.pc + 2 ∧ Frame [x] [] s t) ∧
    (∃ t, exec (.xorReg x y) s = .next t ∧
      (∀ k, (t.reg x).getLsbD k = ((s.reg x).getLsbD k ^^ (s.reg y).getLsbD k)) ∧ t.pc = s.pc + 2 ∧ Frame [x] [] s t)

/-- ADD, SUB, SUBN (43_alu.md R95, R96, R98): the wrapped result in Vx and the carry, or the absence of a borrow, in VF.
For x = 0xF VF holds the flag and the result is lost: that order of writes (R90) is the spec's decision D8 (log 13). -/
def Obligations.AddAndSubtractSetVf : Prop :=
  EncodedAs 0xF00F 0x8004 (fun op => .addReg op.x op.y) ∧ EncodedAs 0xF00F 0x8005 (fun op => .subReg op.x op.y) ∧
  EncodedAs 0xF00F 0x8007 (fun op => .subn op.x op.y) ∧
  ∀ (s : State) (x y : RegIdx),
    (∃ t, exec (.addReg x y) s = .next t ∧
      (x ≠ vf → (t.reg x).toNat = ((s.reg x).toNat + (s.reg y).toNat) % 256) ∧
      t.reg vf = (if (s.reg x).toNat + (s.reg y).toNat > 255 then 1 else 0) ∧
      t.pc = s.pc + 2 ∧ Frame [x, vf] [] s t) ∧
    (∃ t, exec (.subReg x y) s = .next t ∧
      (x ≠ vf → (t.reg x).toNat = ((s.reg x).toNat + 256 - (s.reg y).toNat) % 256) ∧
      t.reg vf = (if (s.reg x).toNat ≥ (s.reg y).toNat then 1 else 0) ∧
      t.pc = s.pc + 2 ∧ Frame [x, vf] [] s t) ∧
    (∃ t, exec (.subn x y) s = .next t ∧
      (x ≠ vf → (t.reg x).toNat = ((s.reg y).toNat + 256 - (s.reg x).toNat) % 256) ∧
      t.reg vf = (if (s.reg y).toNat ≥ (s.reg x).toNat then 1 else 0) ∧
      t.pc = s.pc + 2 ∧ Frame [x, vf] [] s t)

/-- SHR and SHL (43_alu.md R97, R99): the bit shifted out goes to VF as 0 or 1. The result of SHL, that Vy plays no part,
and VF's final value for x = 0xF (0 after SHR, 0 or 2 after SHL, R90) are the spec's decisions D9, D28 and D8
(log 13, log 22). -/
def Obligations.ShiftsByOne : Prop :=
  EncodedAs 0xF00F 0x8006 (fun op => .shr op.x) ∧ EncodedAs 0xF00F 0x800E (fun op => .shl op.x) ∧
  ∀ (s : State) (x : RegIdx),
    (∃ t, exec (.shr x) s = .next t ∧
      (x ≠ vf → (t.reg x).toNat = (s.reg x).toNat / 2 ∧ (t.reg vf).toNat = (s.reg x).toNat % 2) ∧
      (x = vf → t.reg vf = 0) ∧ t.pc = s.pc + 2 ∧ Frame [x, vf] [] s t) ∧
    (∃ t, exec (.shl x) s = .next t ∧
      (x ≠ vf → (t.reg x).toNat = 2 * (s.reg x).toNat % 256 ∧ (t.reg vf).toNat = (s.reg x).toNat / 128) ∧
      (x = vf → (t.reg vf).toNat = 2 * ((s.reg vf).toNat / 128)) ∧ t.pc = s.pc + 2 ∧ Frame [x, vf] [] s t)

/-! ### Families A, B, C -/

/-- LD I, nnn (44_misc.md R106): zero-extended, unchecked. -/
def Obligations.LoadIndex : Prop :=
  EncodedAs 0xF000 0xA000 (fun op => .ldI op.nnn) ∧
  ∀ (s : State) (nnn : Addr12),
    ∃ t, exec (.ldI nnn) s = .next t ∧ t.i.toNat = nnn.toNat ∧ t.pc = s.pc + 2 ∧ Frame [] [.index] s t

/-- JP V0, nnn (44_misc.md R107): the 16-bit sum of nnn and V0, at most 0x10FE. That it is not reduced modulo 4096 is the
spec's decision D2 (log 11). -/
def Obligations.JumpWithOffset : Prop :=
  EncodedAs 0xF000 0xB000 (fun op => .jpV0 op.nnn) ∧
  ∀ (s : State) (nnn : Addr12),
    ∃ t, exec (.jpV0 nnn) s = .next t ∧ t.pc.toNat = nnn.toNat + (s.reg 0).toNat ∧ t.pc.toNat ≤ 0x10FE ∧ Frame [] [] s t

/-- RND Vx, nn (44_misc.md R108; 60_exceptions.md R162): the draw masked by nn, for every draw (a free value, decision D7;
log 3); no bit outside nn is set. -/
def Obligations.RandomIsMasked : Prop :=
  EncodedAs 0xF000 0xC000 (fun op => .rnd op.x op.nn) ∧
  ∀ (s : State) (x : RegIdx) (nn : Byte),
    ∃ t, exec (.rnd x nn) s = .next t ∧ t.reg x = s.input.random &&& nn ∧
      (∀ k, nn.getLsbD k = false → (t.reg x).getLsbD k = false) ∧ t.pc = s.pc + 2 ∧ Frame [x] [] s t

/-! ### Families D, E -/

/-- DRW Vx, Vy, n (45_draw_key.md R113; 60_exceptions.md R157): the n bytes at I are drawn at (Vx, Vy), VF is the collision
bit, and I and memory are unchanged; with a row above 0xFFF the fault, and nothing drawn. The fault, its precision and the
empty sprite are the spec's decisions D2, D3 and D26 (log 11, 1, 27); the picture rests on D19 (log 9). -/
def Obligations.DrawSprite : Prop :=
  EncodedAs 0xF000 0xD000 (fun op => .drw op.x op.y op.n) ∧
  ∀ (s : State) (x y : RegIdx) (n : Nibble),
    ((n.toNat = 0 ∨ s.i.toNat + (n.toNat - 1) ≤ 0xFFF) →
      ∃ (t : State) (rows : List Byte), exec (.drw x y n) s = .next t ∧
        rows.length = n.toNat ∧ (∀ r, r < n.toNat → rows[r]? = some (s.mem.read (s.i.toNat + r))) ∧
        t.events = .displayDraw (s.reg x) (s.reg y) rows :: s.events ∧
        t.display = (s.display.draw (s.reg x) (s.reg y) rows).1 ∧
        t.reg vf = (if (s.display.draw (s.reg x) (s.reg y) rows).2 then 1 else 0) ∧
        t.pc = s.pc + 2 ∧ Frame [vf] [.display, .events] s t) ∧
    (0 < n.toNat ∧ 0xFFF < s.i.toNat + (n.toNat - 1) →
      ∃ t, exec (.drw x y n) s = .next t ∧ RaisesOnly (.addressOutOfRange (max s.i.toNat 0x1000)) s t)

/-- The loops of `Display.draw` (60_exceptions.md R158) meet its contract (R157): each pixel is XORed with the sprite's bit
on it, wrapped at the edges, and the collision bit says whether a lit pixel was turned off. Which bit is the leftmost
column is the spec's decision D19 (log 9). -/
def Obligations.DrawMeetsTheXorContract : Prop :=
  ∀ (d : Display) (x y : Byte) (rows : List Byte), rows.length ≤ 15 →
    (∀ cx cy, cx < 64 → cy < 32 → (d.draw x y rows).1.pixel cx cy = (d.pixel cx cy ^^ Display.covers rows x y cx cy)) ∧
    ((d.draw x y rows).2 = true ↔
      ∃ cx cy, cx < 64 ∧ cy < 32 ∧ Display.covers rows x y cx cy = true ∧ d.pixel cx cy = true)

/-- Drawing a sprite twice restores the screen (45_draw_key.md R113), and the second draw collides exactly when some pixel
under the sprite was off before the first: on a blank screen, exactly when the sprite has a set bit (log 36). -/
def Obligations.DrawingTwiceRestoresTheScreen : Prop :=
  ∀ (d : Display) (x y : Byte) (rows : List Byte), rows.length ≤ 15 →
    (((d.draw x y rows).1.draw x y rows).1 = d) ∧
    (((d.draw x y rows).1.draw x y rows).2 = true ↔
      ∃ cx cy, cx < 64 ∧ cy < 32 ∧ Display.covers rows x y cx cy = true ∧ d.pixel cx cy = false) ∧
    (((Display.blank.draw x y rows).1.draw x y rows).2 = true ↔ ∃ row ∈ rows, row ≠ 0)

/-- SKP and SKNP (45_draw_key.md R114, R115): the key numbered by the whole byte Vx, its level in this Step. A number above
15 faults: the spec's decision D5 (log 25). -/
def Obligations.SkipsOnKeys : Prop :=
  EncodedAs 0xF0FF 0xE09E (fun op => .skp op.x) ∧ EncodedAs 0xF0FF 0xE0A1 (fun op => .sknp op.x) ∧
  ∀ (s : State) (x : RegIdx),
    ((s.reg x).toNat ≤ 15 →
      (∃ t, exec (.skp x) s = .next t ∧
        t.pc = (if s.input.isPressed (s.reg x).toNat then s.pc + 4 else s.pc + 2) ∧ Frame [] [] s t) ∧
      (∃ t, exec (.sknp x) s = .next t ∧
        t.pc = (if s.input.isPressed (s.reg x).toNat then s.pc + 2 else s.pc + 4) ∧ Frame [] [] s t)) ∧
    (15 < (s.reg x).toNat →
      (∃ t, exec (.skp x) s = .next t ∧ RaisesOnly (.keyIndexOutOfRange (s.reg x)) s t) ∧
      (∃ t, exec (.sknp x) s = .next t ∧ RaisesOnly (.keyIndexOutOfRange (s.reg x)) s t))

/-! ### Family F -/

/-- LD Vx, DT and LD DT, Vx (46_f_family.md R121, R123). -/
def Obligations.DelayTimerMoves : Prop :=
  EncodedAs 0xF0FF 0xF007 (fun op => .ldVxDt op.x) ∧ EncodedAs 0xF0FF 0xF015 (fun op => .ldDtVx op.x) ∧
  ∀ (s : State) (x : RegIdx),
    (∃ t, exec (.ldVxDt x) s = .next t ∧ t.reg x = s.dt ∧ t.pc = s.pc + 2 ∧ Frame [x] [] s t) ∧
    (∃ t, exec (.ldDtVx x) s = .next t ∧ t.dt = s.reg x ∧ t.pc = s.pc + 2 ∧ Frame [] [.delay] s t)

/-- LD ST, Vx (46_f_family.md R124): whatever is written, no event leaves the core: the spec's decision D25 (log 30). -/
def Obligations.SoundTimerWriteIsSilent : Prop :=
  EncodedAs 0xF0FF 0xF018 (fun op => .ldStVx op.x) ∧
  ∀ (s : State) (x : RegIdx),
    ∃ t, exec (.ldStVx x) s = .next t ∧ t.st = s.reg x ∧ t.events = s.events ∧ t.pc = s.pc + 2 ∧ Frame [] [.sound] s t

/-- LD Vx, K (46_f_family.md R122): with no key pressed nothing changes at all, PC included; with one pressed, Vx is some
pressed key's number and PC advances. Level, not edge, and any pressed key: the spec's decisions D30 and D6 (log 26, 4). -/
def Obligations.KeyWaitTakesAPressedKey : Prop :=
  EncodedAs 0xF0FF 0xF00A (fun op => .ldVxK op.x) ∧
  ∀ (s : State) (x : RegIdx),
    ((∀ k, k < 16 → s.input.isPressed k = false) → exec (.ldVxK x) s = .next s) ∧
    ((∃ k, k < 16 ∧ s.input.isPressed k = true) →
      ∃ (t : State) (k : Nat), exec (.ldVxK x) s = .next t ∧ k < 16 ∧ s.input.isPressed k = true ∧
        (t.reg x).toNat = k ∧ t.pc = s.pc + 2 ∧ Frame [x] [] s t)

/-- Every pressed key may be the one reported: for each there is a choice of the boundary input, with the same KEYS, that
reports it (46_f_family.md R122, decision D6; log 4). -/
def Obligations.KeyWaitMayReportAnyPressedKey : Prop :=
  ∀ (s : State) (x : RegIdx) (k : Nat), k < 16 → s.input.isPressed k = true →
    ∃ (pick : BitVec 4) (t : State),
      exec (.ldVxK x) { s with oracle := { s.input with pick := pick } :: s.oracle.tail } = .next t ∧ (t.reg x).toNat = k

/-- ADD I, Vx and LD F, Vx (46_f_family.md R125, R126): no flag. The wrap modulo 65536 and the use of the whole byte are the
spec's decisions D10 and D27 (log 12, 24). -/
def Obligations.AddToIndexAndFontAddress : Prop :=
  EncodedAs 0xF0FF 0xF01E (fun op => .addI op.x) ∧ EncodedAs 0xF0FF 0xF029 (fun op => .ldF op.x) ∧
  ∀ (s : State) (x : RegIdx),
    (∃ t, exec (.addI x) s = .next t ∧ t.i.toNat = (s.i.toNat + (s.reg x).toNat) % 65536 ∧ t.pc = s.pc + 2 ∧
      Frame [] [.index] s t) ∧
    (∃ t, exec (.ldF x) s = .next t ∧ t.i.toNat = 5 * (s.reg x).toNat ∧ t.pc = s.pc + 2 ∧ Frame [] [.index] s t)

/-- LD B, Vx (46_f_family.md R127): hundreds, tens and ones at I, I + 1, I + 2, every other byte as before; with the run not
all valid the fault, and no byte written (decisions D2, D3; log 11, 1). Canonical memory is the model's invariant. -/
def Obligations.BcdStoresThreeDigits : Prop :=
  EncodedAs 0xF0FF 0xF033 (fun op => .ldB op.x) ∧
  ∀ (s : State) (x : RegIdx), s.mem.wf = true →
    (s.i.toNat + 2 ≤ 0xFFF →
      ∃ t, exec (.ldB x) s = .next t ∧
        (t.mem.read s.i.toNat).toNat = (s.reg x).toNat / 100 ∧
        (t.mem.read (s.i.toNat + 1)).toNat = (s.reg x).toNat / 10 % 10 ∧
        (t.mem.read (s.i.toNat + 2)).toNat = (s.reg x).toNat % 10 ∧
        (∀ a, a < s.i.toNat ∨ s.i.toNat + 2 < a → t.mem.read a = s.mem.read a) ∧
        t.pc = s.pc + 2 ∧ Frame [] [.memory] s t) ∧
    (0xFFF < s.i.toNat + 2 →
      ∃ t, exec (.ldB x) s = .next t ∧ RaisesOnly (.addressOutOfRange (max s.i.toNat 0x1000)) s t)

/-- LD [I], Vx (46_f_family.md R128): V[k] at I + k for k in 0..x, every other byte as before, I unchanged; with the run not
all valid the fault, and no byte written (decisions D2, D3, D11; log 11, 1, 23). -/
def Obligations.RegisterDumpStoresV0ToVx : Prop :=
  EncodedAs 0xF0FF 0xF055 (fun op => .stRegs op.x) ∧
  ∀ (s : State) (x : RegIdx), s.mem.wf = true →
    (s.i.toNat + x.toNat ≤ 0xFFF →
      ∃ t, exec (.stRegs x) s = .next t ∧
        (∀ k : RegIdx, k.toNat ≤ x.toNat → t.mem.read (s.i.toNat + k.toNat) = s.reg k) ∧
        (∀ a, a < s.i.toNat ∨ s.i.toNat + x.toNat < a → t.mem.read a = s.mem.read a) ∧
        t.pc = s.pc + 2 ∧ Frame [] [.memory] s t) ∧
    (0xFFF < s.i.toNat + x.toNat →
      ∃ t, exec (.stRegs x) s = .next t ∧ RaisesOnly (.addressOutOfRange (max s.i.toNat 0x1000)) s t)

/-- LD Vx, [I] (46_f_family.md R129): V[k] from I + k for k in 0..x, the registers above Vx and I unchanged; with the run not
all valid the fault, and no register written (decisions D2, D3, D11; log 11, 1, 23). -/
def Obligations.RegisterLoadReadsV0ToVx : Prop :=
  EncodedAs 0xF0FF 0xF065 (fun op => .ldRegs op.x) ∧
  ∀ (s : State) (x : RegIdx),
    (s.i.toNat + x.toNat ≤ 0xFFF →
      ∃ t, exec (.ldRegs x) s = .next t ∧
        (∀ k : RegIdx, k.toNat ≤ x.toNat → t.reg k = s.mem.read (s.i.toNat + k.toNat)) ∧
        (∀ k : RegIdx, x.toNat < k.toNat → t.reg k = s.reg k) ∧
        t.pc = s.pc + 2 ∧ Frame (regsWritten (.ldRegs x)) [] s t) ∧
    (0xFFF < s.i.toNat + x.toNat →
      ∃ t, exec (.ldRegs x) s = .next t ∧ RaisesOnly (.addressOutOfRange (max s.i.toNat 0x1000)) s t)

/-- Dumping V0..Vx at I and loading them back from the same address restores them, whatever the registers hold in between
(95_test_vectors.md S7; 46_f_family.md R128, R129; that I is unchanged is decision D11, log 23). -/
def Obligations.DumpThenLoadRestoresTheRegisters : Prop :=
  ∀ (s : State) (x : RegIdx) (v : Vector Byte 16), s.mem.wf = true → s.i.toNat + x.toNat ≤ 0xFFF →
    ∃ t u, exec (.stRegs x) s = .next t ∧ exec (.ldRegs x) { t with v := v } = .next u ∧
      ∀ k : RegIdx, k.toNat ≤ x.toNat → u.reg k = s.reg k

/-- A stored pair of bytes is what the next fetch from there reads: the lower-numbered register is the high byte of the
opcode (20_memory.md R37, R42). -/
def Obligations.StoredBytesAreFetchedAsAnOpcode : Prop :=
  ∀ (s : State) (x : RegIdx), s.mem.wf = true → 1 ≤ x.toNat → s.i.toNat + x.toNat ≤ 0xFFF →
    ∃ t, exec (.stRegs x) s = .next t ∧ (t.jump t.i).fetch = .ok (s.reg 0 ++ s.reg 1)

/-! ### Unimplemented words -/

/-- An unimplemented word is a logged no-op: the diagnostic with the word and its address, PC + 2, and nothing else
(30_encoding.md R61; 60_exceptions.md R146; that the diagnostic's pc is the word's own address is decision D17, log 31). -/
def Obligations.UnimplementedWordIsALoggedNoOp : Prop :=
  (∀ op : Word, op.unimplemented = true → decode op = .unimpl op) ∧
  ∀ (s : State) (op : Word),
    ∃ t, exec (.unimpl op) s = .next t ∧ t.pc = s.pc + 2 ∧ t.events = .unimplementedOpcode op s.pc :: s.events ∧
      Frame [] [.events] s t

/-! ### Rules of the whole machine -/

/-- Every instruction leaves unchanged the registers and parts of the state that 10_state.md section 12 does not list it
as writing (R12, R16 to R19, R43). -/
def Obligations.InstructionsKeepTheirFrame : Prop :=
  ∀ (i : Instr) (s t : State), exec i s = .next t → Frame (regsWritten i) (partsWritten i) s t

/-- A fault is precise, and only the instructions 60_exceptions.md R148 names raise one, each its own: R140 to R145, the
spec's decisions D2, D3, D5, D23 (log 11, 1, 25, 35). -/
def Obligations.FaultsArePreciseAndNamed : Prop :=
  ∀ (i : Instr) (s t : State), s.fault = .none → exec i s = .next t → t.fault ≠ .none →
    ∃ r, RaisesOnly r s t ∧
      ((∃ nnn, i = .call nnn ∧ s.sp = 16 ∧ r = .stackOverflow) ∨
       (i = .ret ∧ s.sp = 0 ∧ r = .stackUnderflow) ∨
       (r = .addressOutOfRange (max s.i.toNat 0x1000) ∧
         ((∃ x y n, i = .drw x y n ∧ 0 < n.toNat ∧ 0xFFF < s.i.toNat + (n.toNat - 1)) ∨
          (∃ x, i = .ldB x ∧ 0xFFF < s.i.toNat + 2) ∨
          (∃ x, (i = .stRegs x ∨ i = .ldRegs x) ∧ 0xFFF < s.i.toNat + x.toNat))) ∨
       (∃ x, (i = .skp x ∨ i = .sknp x) ∧ 15 < (s.reg x).toNat ∧ r = .keyIndexOutOfRange (s.reg x)))

/-- The only writers of MEM are Reset, Load, Fx33 and Fx55 (20_memory.md R43): Reset writes the machine's font and the fill, Load
the program, and no other instruction and no Tick changes memory. The fill and its default, the font and the failed load are the
spec's decisions D13, D12 and D22 (log 7, 6, 20). -/
def Obligations.MemoryIsWrittenOnlyByFour : Prop :=
  (∀ (font : Font) (fill : List Byte) (s : State),
    (∀ (a : Nat) (h : a < 80), (resetMachine font fill s).mem.read a = font[a]) ∧
    (∀ a, 80 ≤ a → a ≤ 0xFFF → (resetMachine font fill s).mem.read a = fill[a - 80]?.getD 0)) ∧
  (∀ (bytes : List Byte) (s : State), s.mem.wf = true →
    (bytes.length ≤ 3584 →
      (∀ k, k < bytes.length → bytes[k]? = some ((loadProgram bytes s).mem.read (0x200 + k))) ∧
      (∀ a, a < 0x200 ∨ 0x200 + bytes.length ≤ a → (loadProgram bytes s).mem.read a = s.mem.read a)) ∧
    (3584 < bytes.length → (loadProgram bytes s).mem = s.mem)) ∧
  (∀ (i : Instr) (s t : State), (∀ x, i ≠ .ldB x) → (∀ x, i ≠ .stRegs x) → exec i s = .next t → t.mem = s.mem) ∧
  (∀ s : State, (tick s).mem = s.mem)

/-- The boundary inputs reach nothing but Cxnn, Ex9E, ExA1 and Fx0A: any other instruction does the same whatever the host
supplies (60_exceptions.md R155, R160 to R163). -/
def Obligations.InputsReachOnlyFourInstructions : Prop :=
  ∀ (i : Instr) (s t : State) (inputs : List StepInput) (n : Nat),
    (∀ x nn, i ≠ .rnd x nn) → (∀ x, i ≠ .skp x) → (∀ x, i ≠ .sknp x) → (∀ x, i ≠ .ldVxK x) →
    exec i s = .next t →
    exec i { s with oracle := inputs, stepCount := n } = .next { t with oracle := inputs, stepCount := n }

/-- Apart from VF after a draw, nothing of the core depends on the Display (60_exceptions.md R159). -/
def Obligations.DisplayReachesOnlyVf : Prop :=
  ∀ (i : Instr) (s t : State) (d : Display), exec i s = .next t →
    ∃ u, exec i { s with display := d } = .next u ∧ u.pc = t.pc ∧ u.mem = t.mem ∧ Frame [vf] [.display] t u ∧
      ((∀ x y n, i ≠ .drw x y n) → u.reg vf = t.reg vf)

/-- A Step keeps the invariant: memory stays canonical, PC stays at most 0x10FE (10_state.md R15), and every stack slot at
most 0x1000 (40_flow.md R71, R73). PC's bound rests on decisions D2 and D15: PC is never masked or aligned (log 11, 28). -/
def Obligations.StepKeepsTheInvariant : Prop :=
  ∀ s t : State, s.Inv → step s = .next t → t.Inv

/-- The state after reset meets the invariant. -/
def Obligations.ResetMeetsTheInvariant : Prop := State.reset.Inv

/-- Every action of the host keeps the invariant, and a Reset reaches it from any state at all (00_scope.md R3; 10_state.md
R15, R24), whatever the font, the fill, the program loaded and the input. PC's bound rests on decisions D2 and D15
(log 11, 28), Reset at any time on D29 (log 19); that a Load during a run and a Step after a failed Load are taken as the
functions they are, where R174 and R180 make no claim, is the model's own totality (log 20). -/
def Obligations.EveryActionKeepsTheInvariant : Prop :=
  (∀ (font : Font) (fill : List Byte) (s : State), (resetMachine font fill s).Inv) ∧
  ∀ (font : Font) (a : HostAction) (s t : State), s.Inv → perform font a s = .next t → t.Inv

/-- From any state, a Reset followed by any actions of the host ends in a state that meets the invariant, whatever the
font, the fill, the programs loaded and the inputs (00_scope.md R3; 10_state.md R15). PC's bound rests on decisions D2 and
D15 (log 11, 28), Reset from any state on D29 (log 19); Loads during a run and Steps after a failed Load, of which R180 and
R174 make no claim, are the model's own totality (log 20). -/
def Obligations.EveryRunAfterResetKeepsTheInvariant : Prop :=
  ∀ (font : Font) (fill : List Byte) (actions : List HostAction) (s t : State),
    performAll font (.reset fill :: actions) s = .next t → t.Inv

/-- Only Reset returns FAULT to None: on a stopped machine Step is not enabled, Tick and Load leave FAULT as it is, and Reset
clears it (10_state.md R20; 60_exceptions.md R141, R154; the spec's decisions D3, D18; log 1, 34). -/
def Obligations.OnlyResetClearsAFault : Prop :=
  ∀ (font : Font) (s : State), s.fault ≠ .none →
    (∀ inp, perform font (.step inp) s = .fault (.stopped s.fault)) ∧
    (∃ t, perform font .tick s = .next t ∧ t.fault = s.fault) ∧
    (∀ bytes, ∃ t, perform font (.load bytes) s = .next t ∧ t.fault = s.fault) ∧
    (∀ fill, ∃ t, perform font (.reset fill) s = .next t ∧ t.fault = .none)

/-! ### Reset, Load, Tick -/

/-- Reset (70_reset_and_hazards.md R170; 10_state.md R23), from any state, for any font and with any fill, and the same values
in the state the model starts from, whose font is the default. Decisions of the spec: the font is a parameter (D12; log 6),
the fill is taken afresh and is 0 where none is given (D13; log 7), FAULT's value (D3; log 1), Reset at any time (D29;
log 19), no silence event (D25; log 30), the Display left as it is (D19; log 38). Canonical memory is the model's own form. -/
def Obligations.ResetSetsEveryRegister : Prop :=
  ∀ (font : Font) (fill : List Byte) (s t : State),
    (t = resetMachine font fill s ∨ (t = State.reset ∧ font = defaultFont)) →
    (∀ r, t.reg r = 0) ∧ t.i = 0 ∧ t.pc = 0x200 ∧ t.sp = 0 ∧ (∀ k, k < 16 → t.slot k = 0) ∧ t.dt = 0 ∧ t.st = 0 ∧
    t.fault = .none ∧ (∀ (a : Nat) (h : a < 80), t.mem.read a = font[a]) ∧ t.mem.wf = true ∧
    (t = resetMachine font fill s → t.display = s.display ∧ t.events = s.events ∧
      ∀ a, 80 ≤ a → a ≤ 0xFFF → t.mem.read a = fill[a - 80]?.getD 0)

/-- After a Reset, LD F, Vx of a glyph number g makes I point to FONT[5g .. 5g+4], top row first, for any font (10_state.md
R25; 46_f_family.md R126): base 0 and stride 5. That FONT is a parameter is decision D12 (log 6). -/
def Obligations.FontAddressPointsToTheGlyph : Prop :=
  ∀ (font : Font) (fill : List Byte) (s : State) (x : RegIdx) (g : Byte), g.toNat ≤ 15 →
    ∃ t, exec (.ldF x) ((resetMachine font fill s).setReg x g) = .next t ∧
      ∀ k, k < 5 → font[5 * g.toNat + k]? = some (t.mem.read (t.i.toNat + k))

/-- Load (70_reset_and_hazards.md R173): a program of at most 3584 bytes is copied to 0x200 and nothing else changes; a
longer one is signalled and nothing is written, the spec's decision D22 (log 20). -/
def Obligations.LoadCopiesTheProgram : Prop :=
  ∀ (bytes : List Byte) (s : State), s.mem.wf = true →
    (bytes.length ≤ 3584 →
      (∀ k, k < bytes.length → bytes[k]? = some ((loadProgram bytes s).mem.read (0x200 + k))) ∧
      (∀ a, a < 0x200 ∨ 0x200 + bytes.length ≤ a → (loadProgram bytes s).mem.read a = s.mem.read a) ∧
      (loadProgram bytes s).pc = s.pc ∧ Frame [] [.memory] s (loadProgram bytes s)) ∧
    (3584 < bytes.length →
      (loadProgram bytes s).events = .programTooLarge :: s.events ∧ (loadProgram bytes s).pc = s.pc ∧
      Frame [] [.events] s (loadProgram bytes s))

/-- The launch state of a program (70_reset_and_hazards.md R176), for every font, every fill and from every state. That the
font is a parameter is decision D12 (log 6), the fill D13 (log 7), FAULT's value D3 (log 1), Reset from any state D29
(log 19), the Display left as it was D19 (log 38). -/
def Obligations.LaunchState : Prop :=
  ∀ (font : Font) (fill bytes : List Byte) (s t : State), bytes.length ≤ 3584 → t = s.launch font fill bytes →
    (∀ r, t.reg r = 0) ∧ t.i = 0 ∧ t.pc = 0x200 ∧ t.sp = 0 ∧ (∀ k, k < 16 → t.slot k = 0) ∧ t.dt = 0 ∧ t.st = 0 ∧
    t.fault = .none ∧ t.display = s.display ∧
    (∀ (a : Nat) (h : a < 80), t.mem.read a = font[a]) ∧
    (∀ k, k < bytes.length → bytes[k]? = some (t.mem.read (0x200 + k))) ∧
    (∀ a, 80 ≤ a → a ≤ 0xFFF → (a < 0x200 ∨ 0x200 + bytes.length ≤ a) → t.mem.read a = fill[a - 80]?.getD 0)

/-- Tick (60_exceptions.md R150): each timer down by one and clamped at 0, the silence event exactly when ST goes from 1 to
0, and nothing else read or written. -/
def Obligations.TickCountsBothTimersDown : Prop :=
  ∀ (font : Font) (s : State), ∃ t, perform font .tick s = .next t ∧
    t.dt.toNat = s.dt.toNat - 1 ∧ t.st.toNat = s.st.toNat - 1 ∧
    t.events = (if s.st = 1 then [.silence] else []) ++ s.events ∧
    t.pc = s.pc ∧ Frame [] [.delay, .sound, .events] s t

/-- n Ticks in a row bring each timer down by n, clamped at 0, and put out exactly one silence event when ST starts at 1 to
n, none otherwise (60_exceptions.md R151, R152; that nothing but a Tick puts it out is decision D25, log 30). -/
def Obligations.TicksReachZeroAndSignalOnce : Prop :=
  ∀ (font : Font) (n : Nat) (s : State), ∃ t, performAll font (List.replicate n .tick) s = .next t ∧
    t.dt.toNat = s.dt.toNat - n ∧ t.st.toNat = s.st.toNat - n ∧
    t.events = (if 1 ≤ s.st.toNat ∧ s.st.toNat ≤ n then [.silence] else []) ++ s.events ∧
    t.pc = s.pc ∧ Frame [] [.delay, .sound, .events] s t

/-- A finished program stays finished: under any Steps and Ticks of the host every one is enabled, and registers, I, PC,
stack, memory, FAULT and the Display keep their values (70_reset_and_hazards.md R178, the spec's definition D21; log 37). -/
def Obligations.FinishedProgramStaysFinished : Prop :=
  ∀ (font : Font) (actions : List HostAction) (s : State), s.Finished → (∀ a ∈ actions, a = .tick ∨ ∃ inp, a = .step inp) →
    ∃ t, performAll font actions s = .next t ∧ t.Finished ∧ t.pc = s.pc ∧ t.mem = s.mem ∧
      Frame [] [.delay, .sound, .events, .inputs] s t
end

