-- ==== Sys2Proof/Laws/Memory.lean ====
section
/-! SUPPORT. The laws of memory: what a byte reads as after a write, and that every operation keeps the canonical form. -/

namespace Sys2Proof.Machine

/-! ### The canonical form -/

/-- Nothing is listed below the bound from which a memory is canonical. -/
theorem Memory.wfFrom_read_below {lo a : Nat} {m : Memory} (h : Memory.wfFrom lo m = true) (ha : a < lo) :
    m.read a = Memory.unlisted a := by
  induction m generalizing lo with
  | nil => rfl
  | cons e m ih =>
    obtain ⟨k, b⟩ := e
    simp only [Memory.wfFrom, Bool.and_eq_true, decide_eq_true_eq] at h
    obtain ⟨⟨⟨hk, -⟩, -⟩, hm⟩ := h
    rw [Memory.read, if_neg (by omega)]
    exact ih hm (by omega)

/-- A memory canonical from a bound is canonical from any lower one. -/
theorem Memory.wfFrom_mono {lo lo' : Nat} {m : Memory} (h : Memory.wfFrom lo m = true) (hl : lo' ≤ lo) :
    Memory.wfFrom lo' m = true := by
  cases m with
  | nil => rfl
  | cons e m =>
    obtain ⟨k, b⟩ := e
    simp only [Memory.wfFrom, Bool.and_eq_true, decide_eq_true_eq] at h ⊢
    exact ⟨⟨⟨by omega, h.1.1.2⟩, h.1.2⟩, h.2⟩

/-- A write inside the address space keeps the canonical form. -/
theorem Memory.wfFrom_write {lo a : Nat} {m : Memory} (b : Byte) (h : Memory.wfFrom lo m = true) (hl : lo ≤ a)
    (ha : a ≤ 0xFFF) : Memory.wfFrom lo (m.write a b) = true := by
  induction m generalizing lo with
  | nil =>
    rw [Memory.write]
    split
    · rfl
    · simp_all [Memory.wfFrom]
  | cons e m ih =>
    obtain ⟨k, c⟩ := e
    have hc := h
    simp only [Memory.wfFrom, Bool.and_eq_true, decide_eq_true_eq] at h
    obtain ⟨⟨⟨hk, hk'⟩, hu⟩, hm⟩ := h
    rw [Memory.write]
    split
    · split
      · exact hc
      · simp_all [Memory.wfFrom]
    · split
      · subst_vars
        split
        · exact Memory.wfFrom_mono hm (by omega)
        · simp_all [Memory.wfFrom]
      · simp only [Memory.wfFrom, Bool.and_eq_true, decide_eq_true_eq]
        exact ⟨⟨⟨hk, hk'⟩, hu⟩, ih hm (by omega)⟩

/-- A write inside the address space keeps the canonical form. -/
theorem Memory.wf_write {a : Nat} {m : Memory} (b : Byte) (h : m.wf = true) (ha : a ≤ 0xFFF) :
    (m.write a b).wf = true := Memory.wfFrom_write b h (Nat.zero_le a) ha

/-- A run of writes inside the address space keeps the canonical form. -/
theorem Memory.wf_storeBytes {a : Nat} {m : Memory} {bs : List Byte} (h : m.wf = true)
    (ha : bs.length = 0 ∨ a + (bs.length - 1) ≤ 0xFFF) : (m.storeBytes a bs).wf = true := by
  induction bs generalizing m a with
  | nil => exact h
  | cons b bs ih =>
    simp only [List.length_cons] at ha
    exact ih (Memory.wf_write b h (by omega)) (by omega)

/-! ### Reading after writing -/

/-- A write changes no other address, whatever the memory. -/
theorem Memory.read_write_ne {a c : Nat} (m : Memory) (b : Byte) (h : c ≠ a) : (m.write a b).read c = m.read c := by
  induction m with
  | nil =>
    rw [Memory.write]
    split <;> simp [Memory.read, h]
  | cons e m ih =>
    obtain ⟨k, d⟩ := e
    rw [Memory.write]
    split
    · split <;> simp [Memory.read, h]
    · split
      · subst_vars
        split <;> simp [Memory.read, h]
      · simp only [Memory.read, ih]

/-- Below a canonical memory's bound, and above it, an address just written reads as what was written. -/
theorem Memory.read_write_same_from {lo a : Nat} {m : Memory} (b : Byte) (h : Memory.wfFrom lo m = true) :
    (m.write a b).read a = b := by
  induction m generalizing lo with
  | nil =>
    rw [Memory.write]
    split <;> simp_all [Memory.read]
  | cons e m ih =>
    obtain ⟨k, d⟩ := e
    have hc := h
    simp only [Memory.wfFrom, Bool.and_eq_true, decide_eq_true_eq] at h
    obtain ⟨-, hm⟩ := h
    rw [Memory.write]
    split
    · split
      · next hlt hb =>
        rw [Memory.read, if_neg (by omega), Memory.wfFrom_read_below hm (by omega), hb]
      · simp [Memory.read]
    · split
      · subst_vars
        split
        · next hb => rw [Memory.wfFrom_read_below hm (by omega), hb]
        · simp [Memory.read]
      · next hne => rw [Memory.read, if_neg hne, ih hm]

/-- In a canonical memory an address just written reads as what was written, and every other address as before. -/
theorem Memory.read_write {a c : Nat} {m : Memory} (b : Byte) (h : m.wf = true) :
    (m.write a b).read c = if c = a then b else m.read c := by
  split
  · subst_vars
    exact Memory.read_write_same_from b h
  · next hne => exact Memory.read_write_ne m b hne

/-- A run of writes changes no address outside it, whatever the memory. -/
theorem Memory.read_storeBytes_outside {a c : Nat} (m : Memory) (bs : List Byte) (h : c < a ∨ a + bs.length ≤ c) :
    (m.storeBytes a bs).read c = m.read c := by
  induction bs generalizing m a with
  | nil => rfl
  | cons b bs ih =>
    simp only [List.length_cons] at h
    rw [Memory.storeBytes, ih _ (by omega), Memory.read_write_ne _ _ (by omega)]

/-- After a run of writes inside the address space, the k-th address of the run reads as the k-th byte. -/
theorem Memory.read_storeBytes_inside {a k : Nat} {m : Memory} {bs : List Byte} (h : m.wf = true)
    (ha : a + (bs.length - 1) ≤ 0xFFF) (hk : k < bs.length) : (m.storeBytes a bs).read (a + k) = bs[k] := by
  induction bs generalizing m a k with
  | nil => exact absurd hk (Nat.not_lt_zero k)
  | cons b bs ih =>
    simp only [List.length_cons] at ha hk
    rw [Memory.storeBytes]
    cases k with
    | zero =>
      rw [Memory.read_storeBytes_outside _ _ (by omega)]
      simp [Memory.read_write b h]
    | succ k =>
      have := ih (m := m.write a b) (a := a + 1) (k := k) (Memory.wf_write b h (by omega)) (by omega) (by omega)
      rw [List.getElem_cons_succ, ← this]
      congr 1
      omega

/-! ### Runs read -/

/-- A run read has as many bytes as were asked for. -/
@[simp] theorem Memory.length_loadBytes (m : Memory) (a n : Nat) : (m.loadBytes a n).length = n := by
  simp [Memory.loadBytes]

/-- The k-th byte of a run read. -/
@[simp] theorem Memory.getElem_loadBytes (m : Memory) (a n k : Nat) (h : k < (m.loadBytes a n).length) :
    (m.loadBytes a n)[k] = m.read (a + k) := by
  simp [Memory.loadBytes]

end Sys2Proof.Machine
end

