-- ==== Sys2Proof/Laws/Actions.lean ====
section
/-! SUPPORT. What the host's `Reset` leaves in memory, byte by byte, and that the model's first state is a `Reset` with both
parameters at their defaults. -/

namespace Sys2Proof.Machine

/-- The font alone, at 0 to 79, is a canonical memory. -/
theorem wf_fontMemory (font : Font) : (Memory.storeBytes [] 0 font.toList).wf = true :=
  Memory.wf_storeBytes rfl (Or.inr (by simp))

/-- Reset leaves a canonical memory, whatever the font and the fill. -/
@[simp] theorem wf_resetMemory (font : Font) (fill : List Byte) : (resetMemory font fill).wf = true :=
  Memory.wf_storeBytes (wf_fontMemory font) (by rw [List.length_take]; omega)

/-- Below 80 the memory after Reset is the font. -/
theorem read_resetMemory_font (font : Font) (fill : List Byte) {a : Nat} (h : a < 80) :
    (resetMemory font fill).read a = font[a] := by
  rw [resetMemory, Memory.read_storeBytes_outside _ _ (Or.inl h)]
  have := Memory.read_storeBytes_inside (a := 0) (k := a) (bs := font.toList) (m := []) rfl (by simp) (by simpa using h)
  simpa using this

/-- From 80 to the end of memory it is the fill, 0 where the fill runs short. -/
theorem read_resetMemory_fill (font : Font) (fill : List Byte) {a : Nat} (h : 80 ≤ a) (ha : a ≤ 0xFFF) :
    (resetMemory font fill).read a = fill[a - 80]?.getD 0 := by
  have hl : (fill.take 4016).length ≤ 4016 := by rw [List.length_take]; omega
  rw [resetMemory]
  by_cases hk : a - 80 < (fill.take 4016).length
  · obtain ⟨k, rfl⟩ := Nat.exists_eq_add_of_le h
    rw [Nat.add_sub_cancel_left] at hk ⊢
    rw [Memory.read_storeBytes_inside (wf_fontMemory font) (by omega) hk, List.getElem_take,
      List.getElem?_eq_getElem (by rw [List.length_take] at hk; omega), Option.getD_some]
  · have hn : fill.length ≤ a - 80 := by rw [List.length_take] at hk; omega
    rw [Memory.read_storeBytes_outside _ _ (Or.inr (by omega)), Memory.read_storeBytes_outside _ _ (Or.inr (by simpa using h)),
      List.getElem?_eq_none hn]
    exact List.getD_eq_default _ _ h

/-- With both parameters at their defaults, `Reset` leaves the model's first state as it is. -/
theorem resetMachine_default : resetMachine defaultFont [] State.reset = State.reset := by
  rfl

end Sys2Proof.Machine
end

