-- ==== Sys2Proof/Laws/Display.lean ====
section
/-! SUPPORT. The laws of the reference Display: what a pixel is after one bit is plotted. -/

namespace Sys2Proof.Machine

/-- A cleared Display has no lit pixel (60_exceptions.md R156). -/
@[simp] theorem Display.pixel_blank (cx cy : Nat) : Display.blank.pixel cx cy = false := by
  simp [Display.pixel, Display.blank]

/-- Flipping a pixel inverts that one, its coordinates taken modulo 64 and 32, and no other. -/
theorem Display.pixel_flip (d : Display) (cx cy px py : Nat) :
    (d.flip cx cy).pixel px py =
      if px % 64 = cx % 64 ∧ py % 32 = cy % 32 then !d.pixel px py else d.pixel px py := by
  unfold Display.pixel Display.flip
  simp only [Vector.getElem_set]
  by_cases hy : cy % 32 = py % 32
  · by_cases hx : cx % 64 = px % 64
    · simp [hx, hy, Display.pixel]
    · simp [hx, hy, Ne.symm hx]
  · simp [hy, Ne.symm hy]

/-- Plotting a bit: a set bit flips its pixel and reports whether it was lit, a clear bit does nothing. -/
theorem Display.plotBit_eq (acc : Display × Bool) (cx cy : Nat) (bit : Bool) :
    Display.plotBit acc cx cy bit =
      (if bit then acc.1.flip cx cy else acc.1, acc.2 || (bit && acc.1.pixel cx cy)) := by
  cases bit <;> simp [Display.plotBit]

end Sys2Proof.Machine
end

