-- ==== Sys2Proof/Laws/Encoding.lean ====
section
/-! SUPPORT. The fields of a word that is put together from them, by format (30_encoding.md R51, R52), and the nibbles a
mask tests. -/

namespace Sys2Proof

/-! ### Bits of a word put together from its fields -/

theorem Word.getLsbD_formatA (h : Nibble) (a : Addr12) (k : Nat) :
    BitVec.getLsbD (w := 16) (h ++ a) k = if k < 12 then a.getLsbD k else h.getLsbD (k - 12) :=
  BitVec.getLsbD_append

theorem Word.getLsbD_formatX (h x : Nibble) (nn : Byte) (k : Nat) :
    BitVec.getLsbD (w := 16) (h ++ x ++ nn) k =
      if k < 8 then nn.getLsbD k else if k < 12 then x.getLsbD (k - 8) else h.getLsbD (k - 12) := by
  refine (BitVec.getLsbD_append (x := h ++ x) (y := nn)).trans ?_
  rw [BitVec.getLsbD_append]
  grind

theorem Word.getLsbD_formatXY (h x y n : Nibble) (k : Nat) :
    BitVec.getLsbD (w := 16) (h ++ x ++ y ++ n) k =
      if k < 4 then n.getLsbD k else if k < 8 then y.getLsbD (k - 4)
      else if k < 12 then x.getLsbD (k - 8) else h.getLsbD (k - 12) := by
  refine (BitVec.getLsbD_append (x := h ++ x ++ y) (y := n)).trans ?_
  rw [BitVec.getLsbD_append, BitVec.getLsbD_append]
  grind

/-! ### Format A: a family and nnn -/

@[simp] theorem Word.hi_formatA (h : Nibble) (a : Addr12) : Word.hi (h ++ a) = h := by
  apply BitVec.eq_of_getLsbD_eq
  intro k hk
  rw [Word.hi, BitVec.getLsbD_extractLsb', Word.getLsbD_formatA]
  grind

@[simp] theorem Word.nnn_formatA (h : Nibble) (a : Addr12) : Word.nnn (h ++ a) = a := by
  apply BitVec.eq_of_getLsbD_eq
  intro k hk
  rw [Word.nnn, BitVec.getLsbD_extractLsb', Word.getLsbD_formatA]
  grind

/-! ### Formats XI and XK: a family, x and a low byte -/

@[simp] theorem Word.hi_formatX (h x : Nibble) (nn : Byte) : Word.hi (h ++ x ++ nn) = h := by
  apply BitVec.eq_of_getLsbD_eq
  intro k hk
  rw [Word.hi, BitVec.getLsbD_extractLsb', Word.getLsbD_formatX]
  grind

@[simp] theorem Word.x_formatX (h x : Nibble) (nn : Byte) : Word.x (h ++ x ++ nn) = x := by
  apply BitVec.eq_of_getLsbD_eq
  intro k hk
  rw [Word.x, BitVec.getLsbD_extractLsb', Word.getLsbD_formatX]
  grind

@[simp] theorem Word.nn_formatX (h x : Nibble) (nn : Byte) : Word.nn (h ++ x ++ nn) = nn := by
  apply BitVec.eq_of_getLsbD_eq
  intro k hk
  rw [Word.nn, BitVec.getLsbD_extractLsb', Word.getLsbD_formatX]
  grind

/-! ### Formats XY, XYK and XYN: four nibbles -/

@[simp] theorem Word.hi_formatXY (h x y n : Nibble) : Word.hi (h ++ x ++ y ++ n) = h := by
  apply BitVec.eq_of_getLsbD_eq
  intro k hk
  rw [Word.hi, BitVec.getLsbD_extractLsb', Word.getLsbD_formatXY]
  grind

@[simp] theorem Word.x_formatXY (h x y n : Nibble) : Word.x (h ++ x ++ y ++ n) = x := by
  apply BitVec.eq_of_getLsbD_eq
  intro k hk
  rw [Word.x, BitVec.getLsbD_extractLsb', Word.getLsbD_formatXY]
  grind

@[simp] theorem Word.y_formatXY (h x y n : Nibble) : Word.y (h ++ x ++ y ++ n) = y := by
  apply BitVec.eq_of_getLsbD_eq
  intro k hk
  rw [Word.y, BitVec.getLsbD_extractLsb', Word.getLsbD_formatXY]
  grind

@[simp] theorem Word.n_formatXY (h x y n : Nibble) : Word.n (h ++ x ++ y ++ n) = n := by
  apply BitVec.eq_of_getLsbD_eq
  intro k hk
  rw [Word.n, BitVec.getLsbD_extractLsb', Word.getLsbD_formatXY]
  grind

/-- The low nibble of a word written with its low byte whole. -/
@[simp] theorem Word.n_formatX (h x : Nibble) (nn : Byte) : Word.n (h ++ x ++ nn) = nn.extractLsb' 0 4 := by
  apply BitVec.eq_of_getLsbD_eq
  intro k hk
  rw [Word.n, BitVec.getLsbD_extractLsb', Word.getLsbD_formatX, BitVec.getLsbD_extractLsb']
  grind

/-! ### What a mask tests (30_encoding.md R60) -/

/-- Equality of words, field by field. -/
theorem Word.ext_fields {a b : Word} (h1 : a.hi = b.hi) (h2 : a.x = b.x) (h3 : a.y = b.y) (h4 : a.n = b.n) : a = b := by
  apply BitVec.eq_of_getLsbD_eq
  intro k hk
  have e1 := congrArg (fun v : Nibble => v.getLsbD (k - 12)) h1
  have e2 := congrArg (fun v : Nibble => v.getLsbD (k - 8)) h2
  have e3 := congrArg (fun v : Nibble => v.getLsbD (k - 4)) h3
  have e4 := congrArg (fun v : Nibble => v.getLsbD k) h4
  simp only [Word.hi, Word.x, Word.y, Word.n, BitVec.getLsbD_extractLsb'] at e1 e2 e3 e4
  rcases (by omega : k < 4 ∨ (4 ≤ k ∧ k < 8) ∨ (8 ≤ k ∧ k < 12) ∨ 12 ≤ k) with h | h | h | h
  · simpa [h] using e4
  · simpa [show k - 4 < 4 by omega, show 4 + (k - 4) = k by omega] using e3
  · simpa [show k - 8 < 4 by omega, show 8 + (k - 8) = k by omega] using e2
  · simpa [show k - 12 < 4 by omega, show 12 + (k - 12) = k by omega] using e1

/-- Equality of words by family, register number and low byte. -/
theorem Word.ext_nn {a b : Word} (h1 : a.hi = b.hi) (h2 : a.x = b.x) (h3 : a.nn = b.nn) : a = b := by
  refine Word.ext_fields h1 h2 ?_ ?_
  · apply BitVec.eq_of_getLsbD_eq
    intro k hk
    have e := congrArg (fun v : Byte => v.getLsbD (4 + k)) h3
    simpa [Word.nn, Word.y, BitVec.getLsbD_extractLsb', hk, show 4 + k < 8 by omega] using e
  · apply BitVec.eq_of_getLsbD_eq
    intro k hk
    have e := congrArg (fun v : Byte => v.getLsbD k) h3
    simpa [Word.nn, Word.n, BitVec.getLsbD_extractLsb', hk, show k < 8 by omega] using e

/-- The fields of a masked word are the masked fields. -/
theorem Word.hi_and (a b : Word) : Word.hi (a &&& b) = a.hi &&& b.hi := by
  apply BitVec.eq_of_getLsbD_eq
  intro k hk
  simp [Word.hi, hk]

theorem Word.x_and (a b : Word) : Word.x (a &&& b) = a.x &&& b.x := by
  apply BitVec.eq_of_getLsbD_eq
  intro k hk
  simp [Word.x, hk]

theorem Word.y_and (a b : Word) : Word.y (a &&& b) = a.y &&& b.y := by
  apply BitVec.eq_of_getLsbD_eq
  intro k hk
  simp [Word.y, hk]

theorem Word.n_and (a b : Word) : Word.n (a &&& b) = a.n &&& b.n := by
  apply BitVec.eq_of_getLsbD_eq
  intro k hk
  simp [Word.n, hk]

theorem Word.nn_and (a b : Word) : Word.nn (a &&& b) = a.nn &&& b.nn := by
  apply BitVec.eq_of_getLsbD_eq
  intro k hk
  simp [Word.nn, hk]

/-- Mask F000 tests the family alone: v is the match's high nibble. -/
theorem Word.mask_F000 (op : Word) (v : Nibble) : op &&& 0xF000#16 = v ++ 0#12 ↔ op.hi = v := by
  constructor
  · intro h
    have := congrArg Word.hi h
    rwa [Word.hi_and, Word.hi_formatA, show Word.hi 0xF000#16 = BitVec.allOnes 4 by decide, BitVec.and_allOnes] at this
  · intro h
    apply Word.ext_nn
    · rw [Word.hi_and, Word.hi_formatA, show Word.hi 0xF000#16 = BitVec.allOnes 4 by decide, BitVec.and_allOnes, h]
    · rw [Word.x_and, show Word.x 0xF000#16 = 0#4 by decide, BitVec.and_zero]
      apply BitVec.eq_of_getLsbD_eq
      intro k hk
      rw [Word.x, BitVec.getLsbD_extractLsb', Word.getLsbD_formatA]
      simp [show 8 + k < 12 by omega]
    · rw [Word.nn_and, show Word.nn 0xF000#16 = 0#8 by decide, BitVec.and_zero]
      apply BitVec.eq_of_getLsbD_eq
      intro k hk
      rw [Word.nn, BitVec.getLsbD_extractLsb', Word.getLsbD_formatA]
      simp [show k < 12 by omega]

/-- Mask F00F tests the family and the low nibble. -/
theorem Word.mask_F00F (op : Word) (v n : Nibble) :
    op &&& 0xF00F#16 = v ++ 0#4 ++ 0#4 ++ n ↔ op.hi = v ∧ op.n = n := by
  have m1 : Word.hi 0xF00F#16 = BitVec.allOnes 4 := by decide
  have m2 : Word.n 0xF00F#16 = BitVec.allOnes 4 := by decide
  constructor
  · intro h
    have h1 := congrArg Word.hi h
    have h2 := congrArg Word.n h
    rw [Word.hi_and, Word.hi_formatXY, m1, BitVec.and_allOnes] at h1
    rw [Word.n_and, Word.n_formatXY, m2, BitVec.and_allOnes] at h2
    exact ⟨h1, h2⟩
  · rintro ⟨h1, h2⟩
    apply Word.ext_fields
    · rw [Word.hi_and, Word.hi_formatXY, m1, BitVec.and_allOnes, h1]
    · rw [Word.x_and, Word.x_formatXY, show Word.x 0xF00F#16 = 0#4 by decide, BitVec.and_zero]
    · rw [Word.y_and, Word.y_formatXY, show Word.y 0xF00F#16 = 0#4 by decide, BitVec.and_zero]
    · rw [Word.n_and, Word.n_formatXY, m2, BitVec.and_allOnes, h2]

/-- Mask F0FF tests the family and the low byte. -/
theorem Word.mask_F0FF (op : Word) (v : Nibble) (nn : Byte) :
    op &&& 0xF0FF#16 = v ++ 0#4 ++ nn ↔ op.hi = v ∧ op.nn = nn := by
  have m1 : Word.hi 0xF0FF#16 = BitVec.allOnes 4 := by decide
  have m2 : Word.nn 0xF0FF#16 = BitVec.allOnes 8 := by decide
  constructor
  · intro h
    have h1 := congrArg Word.hi h
    have h2 := congrArg Word.nn h
    rw [Word.hi_and, Word.hi_formatX, m1, BitVec.and_allOnes] at h1
    rw [Word.nn_and, Word.nn_formatX, m2, BitVec.and_allOnes] at h2
    exact ⟨h1, h2⟩
  · rintro ⟨h1, h2⟩
    apply Word.ext_nn
    · rw [Word.hi_and, Word.hi_formatX, m1, BitVec.and_allOnes, h1]
    · rw [Word.x_and, Word.x_formatX, show Word.x 0xF0FF#16 = 0#4 by decide, BitVec.and_zero]
    · rw [Word.nn_and, Word.nn_formatX, m2, BitVec.and_allOnes, h2]

end Sys2Proof
end

