-- ==== Sys2Proof/Laws/State.lean ====
section
/-! SUPPORT. For each update of the state, what every field, register, stack slot and boundary input is after it. -/

namespace Sys2Proof.Machine

/-! ### `State.setReg` -/

@[simp] theorem State.setReg_v (s : State) (x : RegIdx) (b : Byte) : (s.setReg x b).v = s.v.set x.toNat b x.isLt := rfl
@[simp] theorem State.setReg_i (s : State) (x : RegIdx) (b : Byte) : (s.setReg x b).i = s.i := rfl
@[simp] theorem State.setReg_pc (s : State) (x : RegIdx) (b : Byte) : (s.setReg x b).pc = s.pc := rfl
@[simp] theorem State.setReg_sp (s : State) (x : RegIdx) (b : Byte) : (s.setReg x b).sp = s.sp := rfl
@[simp] theorem State.setReg_stk (s : State) (x : RegIdx) (b : Byte) : (s.setReg x b).stk = s.stk := rfl
@[simp] theorem State.setReg_dt (s : State) (x : RegIdx) (b : Byte) : (s.setReg x b).dt = s.dt := rfl
@[simp] theorem State.setReg_st (s : State) (x : RegIdx) (b : Byte) : (s.setReg x b).st = s.st := rfl
@[simp] theorem State.setReg_mem (s : State) (x : RegIdx) (b : Byte) : (s.setReg x b).mem = s.mem := rfl
@[simp] theorem State.setReg_fault (s : State) (x : RegIdx) (b : Byte) : (s.setReg x b).fault = s.fault := rfl
@[simp] theorem State.setReg_display (s : State) (x : RegIdx) (b : Byte) : (s.setReg x b).display = s.display := rfl
@[simp] theorem State.setReg_oracle (s : State) (x : RegIdx) (b : Byte) : (s.setReg x b).oracle = s.oracle := rfl
@[simp] theorem State.setReg_stepCount (s : State) (x : RegIdx) (b : Byte) : (s.setReg x b).stepCount = s.stepCount := rfl
@[simp] theorem State.setReg_events (s : State) (x : RegIdx) (b : Byte) : (s.setReg x b).events = s.events := rfl
@[simp] theorem State.setReg_slot (s : State) (x : RegIdx) (b : Byte) (k : Nat) : (s.setReg x b).slot k = s.slot k := rfl
@[simp] theorem State.setReg_input (s : State) (x : RegIdx) (b : Byte) : (s.setReg x b).input = s.input := rfl

/-! ### `State.setIndex` -/

@[simp] theorem State.setIndex_v (s : State) (w : Word) : (s.setIndex w).v = s.v := rfl
@[simp] theorem State.setIndex_i (s : State) (w : Word) : (s.setIndex w).i = w := rfl
@[simp] theorem State.setIndex_pc (s : State) (w : Word) : (s.setIndex w).pc = s.pc := rfl
@[simp] theorem State.setIndex_sp (s : State) (w : Word) : (s.setIndex w).sp = s.sp := rfl
@[simp] theorem State.setIndex_stk (s : State) (w : Word) : (s.setIndex w).stk = s.stk := rfl
@[simp] theorem State.setIndex_dt (s : State) (w : Word) : (s.setIndex w).dt = s.dt := rfl
@[simp] theorem State.setIndex_st (s : State) (w : Word) : (s.setIndex w).st = s.st := rfl
@[simp] theorem State.setIndex_mem (s : State) (w : Word) : (s.setIndex w).mem = s.mem := rfl
@[simp] theorem State.setIndex_fault (s : State) (w : Word) : (s.setIndex w).fault = s.fault := rfl
@[simp] theorem State.setIndex_display (s : State) (w : Word) : (s.setIndex w).display = s.display := rfl
@[simp] theorem State.setIndex_oracle (s : State) (w : Word) : (s.setIndex w).oracle = s.oracle := rfl
@[simp] theorem State.setIndex_stepCount (s : State) (w : Word) : (s.setIndex w).stepCount = s.stepCount := rfl
@[simp] theorem State.setIndex_events (s : State) (w : Word) : (s.setIndex w).events = s.events := rfl
@[simp] theorem State.setIndex_reg (s : State) (w : Word) (r : RegIdx) : (s.setIndex w).reg r = s.reg r := rfl
@[simp] theorem State.setIndex_slot (s : State) (w : Word) (k : Nat) : (s.setIndex w).slot k = s.slot k := rfl
@[simp] theorem State.setIndex_input (s : State) (w : Word) : (s.setIndex w).input = s.input := rfl

/-! ### `State.setDelay` -/

@[simp] theorem State.setDelay_v (s : State) (b : Byte) : (s.setDelay b).v = s.v := rfl
@[simp] theorem State.setDelay_i (s : State) (b : Byte) : (s.setDelay b).i = s.i := rfl
@[simp] theorem State.setDelay_pc (s : State) (b : Byte) : (s.setDelay b).pc = s.pc := rfl
@[simp] theorem State.setDelay_sp (s : State) (b : Byte) : (s.setDelay b).sp = s.sp := rfl
@[simp] theorem State.setDelay_stk (s : State) (b : Byte) : (s.setDelay b).stk = s.stk := rfl
@[simp] theorem State.setDelay_dt (s : State) (b : Byte) : (s.setDelay b).dt = b := rfl
@[simp] theorem State.setDelay_st (s : State) (b : Byte) : (s.setDelay b).st = s.st := rfl
@[simp] theorem State.setDelay_mem (s : State) (b : Byte) : (s.setDelay b).mem = s.mem := rfl
@[simp] theorem State.setDelay_fault (s : State) (b : Byte) : (s.setDelay b).fault = s.fault := rfl
@[simp] theorem State.setDelay_display (s : State) (b : Byte) : (s.setDelay b).display = s.display := rfl
@[simp] theorem State.setDelay_oracle (s : State) (b : Byte) : (s.setDelay b).oracle = s.oracle := rfl
@[simp] theorem State.setDelay_stepCount (s : State) (b : Byte) : (s.setDelay b).stepCount = s.stepCount := rfl
@[simp] theorem State.setDelay_events (s : State) (b : Byte) : (s.setDelay b).events = s.events := rfl
@[simp] theorem State.setDelay_reg (s : State) (b : Byte) (r : RegIdx) : (s.setDelay b).reg r = s.reg r := rfl
@[simp] theorem State.setDelay_slot (s : State) (b : Byte) (k : Nat) : (s.setDelay b).slot k = s.slot k := rfl
@[simp] theorem State.setDelay_input (s : State) (b : Byte) : (s.setDelay b).input = s.input := rfl

/-! ### `State.setSound` -/

@[simp] theorem State.setSound_v (s : State) (b : Byte) : (s.setSound b).v = s.v := rfl
@[simp] theorem State.setSound_i (s : State) (b : Byte) : (s.setSound b).i = s.i := rfl
@[simp] theorem State.setSound_pc (s : State) (b : Byte) : (s.setSound b).pc = s.pc := rfl
@[simp] theorem State.setSound_sp (s : State) (b : Byte) : (s.setSound b).sp = s.sp := rfl
@[simp] theorem State.setSound_stk (s : State) (b : Byte) : (s.setSound b).stk = s.stk := rfl
@[simp] theorem State.setSound_dt (s : State) (b : Byte) : (s.setSound b).dt = s.dt := rfl
@[simp] theorem State.setSound_st (s : State) (b : Byte) : (s.setSound b).st = b := rfl
@[simp] theorem State.setSound_mem (s : State) (b : Byte) : (s.setSound b).mem = s.mem := rfl
@[simp] theorem State.setSound_fault (s : State) (b : Byte) : (s.setSound b).fault = s.fault := rfl
@[simp] theorem State.setSound_display (s : State) (b : Byte) : (s.setSound b).display = s.display := rfl
@[simp] theorem State.setSound_oracle (s : State) (b : Byte) : (s.setSound b).oracle = s.oracle := rfl
@[simp] theorem State.setSound_stepCount (s : State) (b : Byte) : (s.setSound b).stepCount = s.stepCount := rfl
@[simp] theorem State.setSound_events (s : State) (b : Byte) : (s.setSound b).events = s.events := rfl
@[simp] theorem State.setSound_reg (s : State) (b : Byte) (r : RegIdx) : (s.setSound b).reg r = s.reg r := rfl
@[simp] theorem State.setSound_slot (s : State) (b : Byte) (k : Nat) : (s.setSound b).slot k = s.slot k := rfl
@[simp] theorem State.setSound_input (s : State) (b : Byte) : (s.setSound b).input = s.input := rfl

/-! ### `State.jump` -/

@[simp] theorem State.jump_v (s : State) (w : Word) : (s.jump w).v = s.v := rfl
@[simp] theorem State.jump_i (s : State) (w : Word) : (s.jump w).i = s.i := rfl
@[simp] theorem State.jump_pc (s : State) (w : Word) : (s.jump w).pc = w := rfl
@[simp] theorem State.jump_sp (s : State) (w : Word) : (s.jump w).sp = s.sp := rfl
@[simp] theorem State.jump_stk (s : State) (w : Word) : (s.jump w).stk = s.stk := rfl
@[simp] theorem State.jump_dt (s : State) (w : Word) : (s.jump w).dt = s.dt := rfl
@[simp] theorem State.jump_st (s : State) (w : Word) : (s.jump w).st = s.st := rfl
@[simp] theorem State.jump_mem (s : State) (w : Word) : (s.jump w).mem = s.mem := rfl
@[simp] theorem State.jump_fault (s : State) (w : Word) : (s.jump w).fault = s.fault := rfl
@[simp] theorem State.jump_display (s : State) (w : Word) : (s.jump w).display = s.display := rfl
@[simp] theorem State.jump_oracle (s : State) (w : Word) : (s.jump w).oracle = s.oracle := rfl
@[simp] theorem State.jump_stepCount (s : State) (w : Word) : (s.jump w).stepCount = s.stepCount := rfl
@[simp] theorem State.jump_events (s : State) (w : Word) : (s.jump w).events = s.events := rfl
@[simp] theorem State.jump_reg (s : State) (w : Word) (r : RegIdx) : (s.jump w).reg r = s.reg r := rfl
@[simp] theorem State.jump_slot (s : State) (w : Word) (k : Nat) : (s.jump w).slot k = s.slot k := rfl
@[simp] theorem State.jump_input (s : State) (w : Word) : (s.jump w).input = s.input := rfl

/-! ### `State.advance` -/

@[simp] theorem State.advance_v (s : State) : (s.advance).v = s.v := rfl
@[simp] theorem State.advance_i (s : State) : (s.advance).i = s.i := rfl
@[simp] theorem State.advance_pc (s : State) : (s.advance).pc = s.pc + 2 := rfl
@[simp] theorem State.advance_sp (s : State) : (s.advance).sp = s.sp := rfl
@[simp] theorem State.advance_stk (s : State) : (s.advance).stk = s.stk := rfl
@[simp] theorem State.advance_dt (s : State) : (s.advance).dt = s.dt := rfl
@[simp] theorem State.advance_st (s : State) : (s.advance).st = s.st := rfl
@[simp] theorem State.advance_mem (s : State) : (s.advance).mem = s.mem := rfl
@[simp] theorem State.advance_fault (s : State) : (s.advance).fault = s.fault := rfl
@[simp] theorem State.advance_display (s : State) : (s.advance).display = s.display := rfl
@[simp] theorem State.advance_oracle (s : State) : (s.advance).oracle = s.oracle := rfl
@[simp] theorem State.advance_stepCount (s : State) : (s.advance).stepCount = s.stepCount := rfl
@[simp] theorem State.advance_events (s : State) : (s.advance).events = s.events := rfl
@[simp] theorem State.advance_reg (s : State) (r : RegIdx) : (s.advance).reg r = s.reg r := rfl
@[simp] theorem State.advance_slot (s : State) (k : Nat) : (s.advance).slot k = s.slot k := rfl
@[simp] theorem State.advance_input (s : State) : (s.advance).input = s.input := rfl

/-! ### `State.skipIf` -/

@[simp] theorem State.skipIf_v (s : State) (c : Bool) : (s.skipIf c).v = s.v := rfl
@[simp] theorem State.skipIf_i (s : State) (c : Bool) : (s.skipIf c).i = s.i := rfl
@[simp] theorem State.skipIf_pc (s : State) (c : Bool) : (s.skipIf c).pc = if c then s.pc + 4 else s.pc + 2 := rfl
@[simp] theorem State.skipIf_sp (s : State) (c : Bool) : (s.skipIf c).sp = s.sp := rfl
@[simp] theorem State.skipIf_stk (s : State) (c : Bool) : (s.skipIf c).stk = s.stk := rfl
@[simp] theorem State.skipIf_dt (s : State) (c : Bool) : (s.skipIf c).dt = s.dt := rfl
@[simp] theorem State.skipIf_st (s : State) (c : Bool) : (s.skipIf c).st = s.st := rfl
@[simp] theorem State.skipIf_mem (s : State) (c : Bool) : (s.skipIf c).mem = s.mem := rfl
@[simp] theorem State.skipIf_fault (s : State) (c : Bool) : (s.skipIf c).fault = s.fault := rfl
@[simp] theorem State.skipIf_display (s : State) (c : Bool) : (s.skipIf c).display = s.display := rfl
@[simp] theorem State.skipIf_oracle (s : State) (c : Bool) : (s.skipIf c).oracle = s.oracle := rfl
@[simp] theorem State.skipIf_stepCount (s : State) (c : Bool) : (s.skipIf c).stepCount = s.stepCount := rfl
@[simp] theorem State.skipIf_events (s : State) (c : Bool) : (s.skipIf c).events = s.events := rfl
@[simp] theorem State.skipIf_reg (s : State) (c : Bool) (r : RegIdx) : (s.skipIf c).reg r = s.reg r := rfl
@[simp] theorem State.skipIf_slot (s : State) (c : Bool) (k : Nat) : (s.skipIf c).slot k = s.slot k := rfl
@[simp] theorem State.skipIf_input (s : State) (c : Bool) : (s.skipIf c).input = s.input := rfl

/-! ### `State.emit` -/

@[simp] theorem State.emit_v (s : State) (e : Event) : (s.emit e).v = s.v := rfl
@[simp] theorem State.emit_i (s : State) (e : Event) : (s.emit e).i = s.i := rfl
@[simp] theorem State.emit_pc (s : State) (e : Event) : (s.emit e).pc = s.pc := rfl
@[simp] theorem State.emit_sp (s : State) (e : Event) : (s.emit e).sp = s.sp := rfl
@[simp] theorem State.emit_stk (s : State) (e : Event) : (s.emit e).stk = s.stk := rfl
@[simp] theorem State.emit_dt (s : State) (e : Event) : (s.emit e).dt = s.dt := rfl
@[simp] theorem State.emit_st (s : State) (e : Event) : (s.emit e).st = s.st := rfl
@[simp] theorem State.emit_mem (s : State) (e : Event) : (s.emit e).mem = s.mem := rfl
@[simp] theorem State.emit_fault (s : State) (e : Event) : (s.emit e).fault = s.fault := rfl
@[simp] theorem State.emit_display (s : State) (e : Event) : (s.emit e).display = s.display := rfl
@[simp] theorem State.emit_oracle (s : State) (e : Event) : (s.emit e).oracle = s.oracle := rfl
@[simp] theorem State.emit_stepCount (s : State) (e : Event) : (s.emit e).stepCount = s.stepCount := rfl
@[simp] theorem State.emit_events (s : State) (e : Event) : (s.emit e).events = e :: s.events := rfl
@[simp] theorem State.emit_reg (s : State) (e : Event) (r : RegIdx) : (s.emit e).reg r = s.reg r := rfl
@[simp] theorem State.emit_slot (s : State) (e : Event) (k : Nat) : (s.emit e).slot k = s.slot k := rfl
@[simp] theorem State.emit_input (s : State) (e : Event) : (s.emit e).input = s.input := rfl

/-! ### `State.raise` -/

@[simp] theorem State.raise_v (s : State) (f : FaultReport) : (s.raise f).v = s.v := rfl
@[simp] theorem State.raise_i (s : State) (f : FaultReport) : (s.raise f).i = s.i := rfl
@[simp] theorem State.raise_pc (s : State) (f : FaultReport) : (s.raise f).pc = s.pc := rfl
@[simp] theorem State.raise_sp (s : State) (f : FaultReport) : (s.raise f).sp = s.sp := rfl
@[simp] theorem State.raise_stk (s : State) (f : FaultReport) : (s.raise f).stk = s.stk := rfl
@[simp] theorem State.raise_dt (s : State) (f : FaultReport) : (s.raise f).dt = s.dt := rfl
@[simp] theorem State.raise_st (s : State) (f : FaultReport) : (s.raise f).st = s.st := rfl
@[simp] theorem State.raise_mem (s : State) (f : FaultReport) : (s.raise f).mem = s.mem := rfl
@[simp] theorem State.raise_fault (s : State) (f : FaultReport) : (s.raise f).fault = f.cell := rfl
@[simp] theorem State.raise_display (s : State) (f : FaultReport) : (s.raise f).display = s.display := rfl
@[simp] theorem State.raise_oracle (s : State) (f : FaultReport) : (s.raise f).oracle = s.oracle := rfl
@[simp] theorem State.raise_stepCount (s : State) (f : FaultReport) : (s.raise f).stepCount = s.stepCount := rfl
@[simp] theorem State.raise_events (s : State) (f : FaultReport) : (s.raise f).events = .faultReport f :: s.events := rfl
@[simp] theorem State.raise_reg (s : State) (f : FaultReport) (r : RegIdx) : (s.raise f).reg r = s.reg r := rfl
@[simp] theorem State.raise_slot (s : State) (f : FaultReport) (k : Nat) : (s.raise f).slot k = s.slot k := rfl
@[simp] theorem State.raise_input (s : State) (f : FaultReport) : (s.raise f).input = s.input := rfl

/-! ### `State.push` -/

@[simp] theorem State.push_v (s : State) (w : Word) : (s.push w).v = s.v := rfl
@[simp] theorem State.push_i (s : State) (w : Word) : (s.push w).i = s.i := rfl
@[simp] theorem State.push_pc (s : State) (w : Word) : (s.push w).pc = s.pc := rfl
@[simp] theorem State.push_sp (s : State) (w : Word) : (s.push w).sp = s.sp + 1 := rfl
@[simp] theorem State.push_stk (s : State) (w : Word) : (s.push w).stk = s.stk.setIfInBounds s.sp.val w := rfl
@[simp] theorem State.push_dt (s : State) (w : Word) : (s.push w).dt = s.dt := rfl
@[simp] theorem State.push_st (s : State) (w : Word) : (s.push w).st = s.st := rfl
@[simp] theorem State.push_mem (s : State) (w : Word) : (s.push w).mem = s.mem := rfl
@[simp] theorem State.push_fault (s : State) (w : Word) : (s.push w).fault = s.fault := rfl
@[simp] theorem State.push_display (s : State) (w : Word) : (s.push w).display = s.display := rfl
@[simp] theorem State.push_oracle (s : State) (w : Word) : (s.push w).oracle = s.oracle := rfl
@[simp] theorem State.push_stepCount (s : State) (w : Word) : (s.push w).stepCount = s.stepCount := rfl
@[simp] theorem State.push_events (s : State) (w : Word) : (s.push w).events = s.events := rfl
@[simp] theorem State.push_reg (s : State) (w : Word) (r : RegIdx) : (s.push w).reg r = s.reg r := rfl
@[simp] theorem State.push_input (s : State) (w : Word) : (s.push w).input = s.input := rfl

/-! ### `State.dropTop` -/

@[simp] theorem State.dropTop_v (s : State) : (s.dropTop).v = s.v := rfl
@[simp] theorem State.dropTop_i (s : State) : (s.dropTop).i = s.i := rfl
@[simp] theorem State.dropTop_pc (s : State) : (s.dropTop).pc = s.pc := rfl
@[simp] theorem State.dropTop_sp (s : State) : (s.dropTop).sp = s.sp - 1 := rfl
@[simp] theorem State.dropTop_stk (s : State) : (s.dropTop).stk = s.stk := rfl
@[simp] theorem State.dropTop_dt (s : State) : (s.dropTop).dt = s.dt := rfl
@[simp] theorem State.dropTop_st (s : State) : (s.dropTop).st = s.st := rfl
@[simp] theorem State.dropTop_mem (s : State) : (s.dropTop).mem = s.mem := rfl
@[simp] theorem State.dropTop_fault (s : State) : (s.dropTop).fault = s.fault := rfl
@[simp] theorem State.dropTop_display (s : State) : (s.dropTop).display = s.display := rfl
@[simp] theorem State.dropTop_oracle (s : State) : (s.dropTop).oracle = s.oracle := rfl
@[simp] theorem State.dropTop_stepCount (s : State) : (s.dropTop).stepCount = s.stepCount := rfl
@[simp] theorem State.dropTop_events (s : State) : (s.dropTop).events = s.events := rfl
@[simp] theorem State.dropTop_reg (s : State) (r : RegIdx) : (s.dropTop).reg r = s.reg r := rfl
@[simp] theorem State.dropTop_slot (s : State) (k : Nat) : (s.dropTop).slot k = s.slot k := rfl
@[simp] theorem State.dropTop_input (s : State) : (s.dropTop).input = s.input := rfl

/-! ### `State.endStep` -/

@[simp] theorem State.endStep_v (s : State) : (s.endStep).v = s.v := rfl
@[simp] theorem State.endStep_i (s : State) : (s.endStep).i = s.i := rfl
@[simp] theorem State.endStep_pc (s : State) : (s.endStep).pc = s.pc := rfl
@[simp] theorem State.endStep_sp (s : State) : (s.endStep).sp = s.sp := rfl
@[simp] theorem State.endStep_stk (s : State) : (s.endStep).stk = s.stk := rfl
@[simp] theorem State.endStep_dt (s : State) : (s.endStep).dt = s.dt := rfl
@[simp] theorem State.endStep_st (s : State) : (s.endStep).st = s.st := rfl
@[simp] theorem State.endStep_mem (s : State) : (s.endStep).mem = s.mem := rfl
@[simp] theorem State.endStep_fault (s : State) : (s.endStep).fault = s.fault := rfl
@[simp] theorem State.endStep_display (s : State) : (s.endStep).display = s.display := rfl
@[simp] theorem State.endStep_oracle (s : State) : (s.endStep).oracle = s.oracle.tail := rfl
@[simp] theorem State.endStep_stepCount (s : State) : (s.endStep).stepCount = s.stepCount + 1 := rfl
@[simp] theorem State.endStep_events (s : State) : (s.endStep).events = s.events := rfl
@[simp] theorem State.endStep_reg (s : State) (r : RegIdx) : (s.endStep).reg r = s.reg r := rfl
@[simp] theorem State.endStep_slot (s : State) (k : Nat) : (s.endStep).slot k = s.slot k := rfl

/-! ### `State.clearDisplay` -/

@[simp] theorem State.clearDisplay_v (s : State) : (s.clearDisplay).v = s.v := rfl
@[simp] theorem State.clearDisplay_i (s : State) : (s.clearDisplay).i = s.i := rfl
@[simp] theorem State.clearDisplay_pc (s : State) : (s.clearDisplay).pc = s.pc := rfl
@[simp] theorem State.clearDisplay_sp (s : State) : (s.clearDisplay).sp = s.sp := rfl
@[simp] theorem State.clearDisplay_stk (s : State) : (s.clearDisplay).stk = s.stk := rfl
@[simp] theorem State.clearDisplay_dt (s : State) : (s.clearDisplay).dt = s.dt := rfl
@[simp] theorem State.clearDisplay_st (s : State) : (s.clearDisplay).st = s.st := rfl
@[simp] theorem State.clearDisplay_mem (s : State) : (s.clearDisplay).mem = s.mem := rfl
@[simp] theorem State.clearDisplay_fault (s : State) : (s.clearDisplay).fault = s.fault := rfl
@[simp] theorem State.clearDisplay_display (s : State) : (s.clearDisplay).display = Display.blank := rfl
@[simp] theorem State.clearDisplay_oracle (s : State) : (s.clearDisplay).oracle = s.oracle := rfl
@[simp] theorem State.clearDisplay_stepCount (s : State) : (s.clearDisplay).stepCount = s.stepCount := rfl
@[simp] theorem State.clearDisplay_events (s : State) : (s.clearDisplay).events = .displayClear :: s.events := rfl
@[simp] theorem State.clearDisplay_reg (s : State) (r : RegIdx) : (s.clearDisplay).reg r = s.reg r := rfl
@[simp] theorem State.clearDisplay_slot (s : State) (k : Nat) : (s.clearDisplay).slot k = s.slot k := rfl
@[simp] theorem State.clearDisplay_input (s : State) : (s.clearDisplay).input = s.input := rfl

/-! ### `State.drawDisplay` -/

@[simp] theorem State.drawDisplay_v (s : State) (x y : Byte) (rows : List Byte) : (s.drawDisplay x y rows).v = s.v := rfl
@[simp] theorem State.drawDisplay_i (s : State) (x y : Byte) (rows : List Byte) : (s.drawDisplay x y rows).i = s.i := rfl
@[simp] theorem State.drawDisplay_pc (s : State) (x y : Byte) (rows : List Byte) : (s.drawDisplay x y rows).pc = s.pc := rfl
@[simp] theorem State.drawDisplay_sp (s : State) (x y : Byte) (rows : List Byte) : (s.drawDisplay x y rows).sp = s.sp := rfl
@[simp] theorem State.drawDisplay_stk (s : State) (x y : Byte) (rows : List Byte) : (s.drawDisplay x y rows).stk = s.stk := rfl
@[simp] theorem State.drawDisplay_dt (s : State) (x y : Byte) (rows : List Byte) : (s.drawDisplay x y rows).dt = s.dt := rfl
@[simp] theorem State.drawDisplay_st (s : State) (x y : Byte) (rows : List Byte) : (s.drawDisplay x y rows).st = s.st := rfl
@[simp] theorem State.drawDisplay_mem (s : State) (x y : Byte) (rows : List Byte) : (s.drawDisplay x y rows).mem = s.mem := rfl
@[simp] theorem State.drawDisplay_fault (s : State) (x y : Byte) (rows : List Byte) : (s.drawDisplay x y rows).fault = s.fault := rfl
@[simp] theorem State.drawDisplay_display (s : State) (x y : Byte) (rows : List Byte) : (s.drawDisplay x y rows).display = (s.display.draw x y rows).1 := rfl
@[simp] theorem State.drawDisplay_oracle (s : State) (x y : Byte) (rows : List Byte) : (s.drawDisplay x y rows).oracle = s.oracle := rfl
@[simp] theorem State.drawDisplay_stepCount (s : State) (x y : Byte) (rows : List Byte) : (s.drawDisplay x y rows).stepCount = s.stepCount := rfl
@[simp] theorem State.drawDisplay_events (s : State) (x y : Byte) (rows : List Byte) : (s.drawDisplay x y rows).events = .displayDraw x y rows :: s.events := rfl
@[simp] theorem State.drawDisplay_reg (s : State) (x y : Byte) (rows : List Byte) (r : RegIdx) : (s.drawDisplay x y rows).reg r = s.reg r := rfl
@[simp] theorem State.drawDisplay_slot (s : State) (x y : Byte) (rows : List Byte) (k : Nat) : (s.drawDisplay x y rows).slot k = s.slot k := rfl
@[simp] theorem State.drawDisplay_input (s : State) (x y : Byte) (rows : List Byte) : (s.drawDisplay x y rows).input = s.input := rfl

/-! ### `State.store` -/

@[simp] theorem State.store_v (s : State) (a : Nat) (bs : List Byte) : (s.store a bs).v = s.v := rfl
@[simp] theorem State.store_i (s : State) (a : Nat) (bs : List Byte) : (s.store a bs).i = s.i := rfl
@[simp] theorem State.store_pc (s : State) (a : Nat) (bs : List Byte) : (s.store a bs).pc = s.pc := rfl
@[simp] theorem State.store_sp (s : State) (a : Nat) (bs : List Byte) : (s.store a bs).sp = s.sp := rfl
@[simp] theorem State.store_stk (s : State) (a : Nat) (bs : List Byte) : (s.store a bs).stk = s.stk := rfl
@[simp] theorem State.store_dt (s : State) (a : Nat) (bs : List Byte) : (s.store a bs).dt = s.dt := rfl
@[simp] theorem State.store_st (s : State) (a : Nat) (bs : List Byte) : (s.store a bs).st = s.st := rfl
@[simp] theorem State.store_mem (s : State) (a : Nat) (bs : List Byte) : (s.store a bs).mem = s.mem.storeBytes a bs := rfl
@[simp] theorem State.store_fault (s : State) (a : Nat) (bs : List Byte) : (s.store a bs).fault = s.fault := rfl
@[simp] theorem State.store_display (s : State) (a : Nat) (bs : List Byte) : (s.store a bs).display = s.display := rfl
@[simp] theorem State.store_oracle (s : State) (a : Nat) (bs : List Byte) : (s.store a bs).oracle = s.oracle := rfl
@[simp] theorem State.store_stepCount (s : State) (a : Nat) (bs : List Byte) : (s.store a bs).stepCount = s.stepCount := rfl
@[simp] theorem State.store_events (s : State) (a : Nat) (bs : List Byte) : (s.store a bs).events = s.events := rfl
@[simp] theorem State.store_reg (s : State) (a : Nat) (bs : List Byte) (r : RegIdx) : (s.store a bs).reg r = s.reg r := rfl
@[simp] theorem State.store_slot (s : State) (a : Nat) (bs : List Byte) (k : Nat) : (s.store a bs).slot k = s.slot k := rfl
@[simp] theorem State.store_input (s : State) (a : Nat) (bs : List Byte) : (s.store a bs).input = s.input := rfl

/-! ### `State.storeRun` -/

@[simp] theorem State.storeRun_v (s : State) (bs : List Byte) : (s.storeRun bs).v = s.v := rfl
@[simp] theorem State.storeRun_i (s : State) (bs : List Byte) : (s.storeRun bs).i = s.i := rfl
@[simp] theorem State.storeRun_pc (s : State) (bs : List Byte) : (s.storeRun bs).pc = s.pc := rfl
@[simp] theorem State.storeRun_sp (s : State) (bs : List Byte) : (s.storeRun bs).sp = s.sp := rfl
@[simp] theorem State.storeRun_stk (s : State) (bs : List Byte) : (s.storeRun bs).stk = s.stk := rfl
@[simp] theorem State.storeRun_dt (s : State) (bs : List Byte) : (s.storeRun bs).dt = s.dt := rfl
@[simp] theorem State.storeRun_st (s : State) (bs : List Byte) : (s.storeRun bs).st = s.st := rfl
@[simp] theorem State.storeRun_mem (s : State) (bs : List Byte) : (s.storeRun bs).mem = s.mem.storeBytes s.i.toNat bs := rfl
@[simp] theorem State.storeRun_fault (s : State) (bs : List Byte) : (s.storeRun bs).fault = s.fault := rfl
@[simp] theorem State.storeRun_display (s : State) (bs : List Byte) : (s.storeRun bs).display = s.display := rfl
@[simp] theorem State.storeRun_oracle (s : State) (bs : List Byte) : (s.storeRun bs).oracle = s.oracle := rfl
@[simp] theorem State.storeRun_stepCount (s : State) (bs : List Byte) : (s.storeRun bs).stepCount = s.stepCount := rfl
@[simp] theorem State.storeRun_events (s : State) (bs : List Byte) : (s.storeRun bs).events = s.events := rfl
@[simp] theorem State.storeRun_reg (s : State) (bs : List Byte) (r : RegIdx) : (s.storeRun bs).reg r = s.reg r := rfl
@[simp] theorem State.storeRun_slot (s : State) (bs : List Byte) (k : Nat) : (s.storeRun bs).slot k = s.slot k := rfl
@[simp] theorem State.storeRun_input (s : State) (bs : List Byte) : (s.storeRun bs).input = s.input := rfl

/-! ### `State.loadRegsUpTo` -/

@[simp] theorem State.loadRegsUpTo_i (s : State) (x : RegIdx) : (s.loadRegsUpTo x).i = s.i := rfl
@[simp] theorem State.loadRegsUpTo_pc (s : State) (x : RegIdx) : (s.loadRegsUpTo x).pc = s.pc := rfl
@[simp] theorem State.loadRegsUpTo_sp (s : State) (x : RegIdx) : (s.loadRegsUpTo x).sp = s.sp := rfl
@[simp] theorem State.loadRegsUpTo_stk (s : State) (x : RegIdx) : (s.loadRegsUpTo x).stk = s.stk := rfl
@[simp] theorem State.loadRegsUpTo_dt (s : State) (x : RegIdx) : (s.loadRegsUpTo x).dt = s.dt := rfl
@[simp] theorem State.loadRegsUpTo_st (s : State) (x : RegIdx) : (s.loadRegsUpTo x).st = s.st := rfl
@[simp] theorem State.loadRegsUpTo_mem (s : State) (x : RegIdx) : (s.loadRegsUpTo x).mem = s.mem := rfl
@[simp] theorem State.loadRegsUpTo_fault (s : State) (x : RegIdx) : (s.loadRegsUpTo x).fault = s.fault := rfl
@[simp] theorem State.loadRegsUpTo_display (s : State) (x : RegIdx) : (s.loadRegsUpTo x).display = s.display := rfl
@[simp] theorem State.loadRegsUpTo_oracle (s : State) (x : RegIdx) : (s.loadRegsUpTo x).oracle = s.oracle := rfl
@[simp] theorem State.loadRegsUpTo_stepCount (s : State) (x : RegIdx) : (s.loadRegsUpTo x).stepCount = s.stepCount := rfl
@[simp] theorem State.loadRegsUpTo_events (s : State) (x : RegIdx) : (s.loadRegsUpTo x).events = s.events := rfl
@[simp] theorem State.loadRegsUpTo_slot (s : State) (x : RegIdx) (k : Nat) : (s.loadRegsUpTo x).slot k = s.slot k := rfl
@[simp] theorem State.loadRegsUpTo_input (s : State) (x : RegIdx) : (s.loadRegsUpTo x).input = s.input := rfl

/-! ### `State.setFlag` -/

@[simp] theorem State.setFlag_v (s : State) (c : Bool) : (s.setFlag c).v = s.v.set vf.toNat (flagByte c) vf.isLt := rfl
@[simp] theorem State.setFlag_i (s : State) (c : Bool) : (s.setFlag c).i = s.i := rfl
@[simp] theorem State.setFlag_pc (s : State) (c : Bool) : (s.setFlag c).pc = s.pc := rfl
@[simp] theorem State.setFlag_sp (s : State) (c : Bool) : (s.setFlag c).sp = s.sp := rfl
@[simp] theorem State.setFlag_stk (s : State) (c : Bool) : (s.setFlag c).stk = s.stk := rfl
@[simp] theorem State.setFlag_dt (s : State) (c : Bool) : (s.setFlag c).dt = s.dt := rfl
@[simp] theorem State.setFlag_st (s : State) (c : Bool) : (s.setFlag c).st = s.st := rfl
@[simp] theorem State.setFlag_mem (s : State) (c : Bool) : (s.setFlag c).mem = s.mem := rfl
@[simp] theorem State.setFlag_fault (s : State) (c : Bool) : (s.setFlag c).fault = s.fault := rfl
@[simp] theorem State.setFlag_display (s : State) (c : Bool) : (s.setFlag c).display = s.display := rfl
@[simp] theorem State.setFlag_oracle (s : State) (c : Bool) : (s.setFlag c).oracle = s.oracle := rfl
@[simp] theorem State.setFlag_stepCount (s : State) (c : Bool) : (s.setFlag c).stepCount = s.stepCount := rfl
@[simp] theorem State.setFlag_events (s : State) (c : Bool) : (s.setFlag c).events = s.events := rfl
@[simp] theorem State.setFlag_slot (s : State) (c : Bool) (k : Nat) : (s.setFlag c).slot k = s.slot k := rfl
@[simp] theorem State.setFlag_input (s : State) (c : Bool) : (s.setFlag c).input = s.input := rfl

/-! ### Registers -/

/-- Reading a register after writing one. -/
@[simp] theorem State.setReg_reg (s : State) (x : RegIdx) (b : Byte) (r : RegIdx) :
    (s.setReg x b).reg r = if r = x then b else s.reg r := by
  simp only [State.reg, State.setReg, Vector.getElem_set, BitVec.toNat_inj, eq_comm (a := x)]

/-- Reading a register after writing the flag. -/
@[simp] theorem State.setFlag_reg (s : State) (c : Bool) (r : RegIdx) :
    (s.setFlag c).reg r = if r = vf then flagByte c else s.reg r := State.setReg_reg ..

/-- Reading a register after loading V[0..x] from memory. -/
@[simp] theorem State.loadRegsUpTo_reg (s : State) (x r : RegIdx) :
    (s.loadRegsUpTo x).reg r = if r.toNat ≤ x.toNat then s.mem.read (s.i.toNat + r.toNat) else s.reg r := by
  simp [State.reg, State.loadRegsUpTo]

/-! ### Stack slots -/

/-- Reading a slot after a push. -/
@[simp] theorem State.push_slot (s : State) (w : Word) (k : Nat) :
    (s.push w).slot k = if k = s.sp.val ∧ k < 16 then w else s.slot k := by
  by_cases hk : k < 16
  · by_cases h : s.sp.val = k
    · subst h
      simp [State.slot, State.push, hk]
    · simp [State.slot, State.push, h, Ne.symm h]
  · simp [State.slot, State.push, hk]

end Sys2Proof.Machine
end

