-- ==== Sys2Proof/Laws/Ops.lean ====
section
/-! SUPPORT. One lemma per shared operation that says everything it can answer. -/

namespace Sys2Proof.Machine

/-! ### Bytes of a word -/

/-- The two bytes of a word, read back in the order of their addresses, are the word. -/
@[simp] theorem wordOfBytes_split (op : Word) : wordOfBytes (op.extractLsb' 8 8) (op.extractLsb' 0 8) = op := by
  apply BitVec.eq_of_getLsbD_eq
  intro k hk
  simp only [wordOfBytes, BitVec.getLsbD_append, BitVec.getLsbD_extractLsb']
  split
  · next h => simp [h]
  · next h =>
    have h1 : k - 8 < 8 := by omega
    have h2 : 8 + (k - 8) = k := by omega
    simp [h1, h2]

/-! ### Fetch (20_memory.md R34) -/

/-- Both bytes valid: the opcode at PC, high byte first. -/
theorem State.fetch_eq_ok {s : State} (h : s.pc.toNat ≤ 0xFFE) :
    s.fetch = .ok (wordOfBytes (s.mem.read s.pc.toNat) (s.mem.read (s.pc.toNat + 1))) := by
  have h0 : ¬ s.pc.toNat > 0xFFF := by omega
  have h1 : ¬ s.pc.toNat + 1 > 0xFFF := by omega
  simp only [State.fetch, State.memRead, h0, h1, if_false]

/-- A byte above 0xFFF: the fault reports the lowest invalid address. -/
theorem State.fetch_eq_error {s : State} (h : 0xFFE < s.pc.toNat) :
    s.fetch = .error (.addressOutOfRange (max s.pc.toNat 0x1000)) := by
  by_cases h0 : s.pc.toNat > 0xFFF
  · simp only [State.fetch, State.memRead, h0, if_true]
    rw [Nat.max_eq_left (by omega)]
  · have h1 : s.pc.toNat = 0xFFF := by omega
    simp [State.fetch, State.memRead, h1]

/-- The opcode placed at PC is the one fetched. -/
theorem State.fetch_placeWord {s : State} (op : Word) (hm : s.mem.wf = true) (h : s.pc.toNat ≤ 0xFFE) :
    (s.placeWord op).fetch = .ok op := by
  have hl : (bytesOfWord op).length = 2 := rfl
  have h0 := Memory.read_storeBytes_inside (a := s.pc.toNat) (k := 0) (bs := bytesOfWord op) hm (by omega) (by omega)
  have h1 := Memory.read_storeBytes_inside (a := s.pc.toNat) (k := 1) (bs := bytesOfWord op) hm (by omega) (by omega)
  have hp : s.placeWord op = { s.store s.pc.toNat (bytesOfWord op) with fault := .none } := by
    rw [State.placeWord, if_pos h]
  rw [State.fetch_eq_ok (by rw [hp]; exact h), hp]
  simp only [State.store_mem, State.store_pc] at h0 h1 ⊢
  rw [Nat.add_zero] at h0
  rw [h1, h0]
  simp [bytesOfWord]

/-! ### The check of a run at I (20_memory.md R36) -/

/-- The check passes exactly when the run is empty or its highest address is valid. -/
theorem State.runFault_eq_none {s : State} {len : Nat} :
    s.runFault len = none ↔ len = 0 ∨ s.i.toNat + (len - 1) ≤ 0xFFF := by
  unfold State.runFault
  split
  · next h => simp; omega
  · next h => simp; omega

/-- The check fails exactly when the highest address of a run is invalid, and reports the lowest invalid address. -/
theorem State.runFault_eq_some {s : State} {len : Nat} {r : FaultReport} :
    s.runFault len = some r ↔
      (0 < len ∧ 0xFFF < s.i.toNat + (len - 1)) ∧ r = .addressOutOfRange (max s.i.toNat 0x1000) := by
  unfold State.runFault
  split
  · next h => simp [h, eq_comm]
  · next h => simp only [reduceCtorEq, false_iff]; exact fun hc => h hc.1

/-! ### Register ranges (46_f_family.md R128, R129) -/

/-- V[0..x] are x + 1 bytes. -/
@[simp] theorem State.length_regsUpTo (s : State) (x : RegIdx) : (s.regsUpTo x).length = x.toNat + 1 := by
  simp [State.regsUpTo, regCount]

/-- The k-th byte of V[0..x] is V[k]. -/
@[simp] theorem State.getElem_regsUpTo (s : State) (x : RegIdx) (k : Nat) (h : k < (s.regsUpTo x).length) :
    (s.regsUpTo x)[k] = s.reg (BitVec.ofNat 4 k) := by
  simp [State.regsUpTo]

/-! ### Key choice (46_f_family.md R122) -/

/-- The pressed keys are the key numbers below 16 whose key is down. -/
theorem StepInput.mem_pressed {inp : StepInput} {k : Nat} : k ∈ inp.pressed ↔ k < 16 ∧ inp.isPressed k = true := by
  simp [StepInput.pressed]

/-- No key is chosen exactly when none is pressed. -/
theorem StepInput.chosenKey_eq_none {inp : StepInput} :
    inp.chosenKey = none ↔ ∀ k, k < 16 → inp.isPressed k = false := by
  have hp : inp.chosenKey = none ↔ inp.pressed = [] := by
    unfold StepInput.chosenKey
    rw [List.getElem?_eq_none_iff]
    refine ⟨fun h => List.eq_nil_of_length_eq_zero ?_, fun h => by simp [h]⟩
    by_contra hne
    exact absurd (Nat.mod_lt inp.pick.toNat (Nat.pos_of_ne_zero hne)) (by omega)
  rw [hp, List.eq_nil_iff_forall_not_mem]
  simp only [StepInput.mem_pressed, not_and, Bool.not_eq_true]

/-- A chosen key is a pressed one. -/
theorem StepInput.chosenKey_pressed {inp : StepInput} {k : Nat} (h : inp.chosenKey = some k) :
    k < 16 ∧ inp.isPressed k = true :=
  StepInput.mem_pressed.1 (List.mem_of_getElem? h)

/-! ### The key number check (60_exceptions.md R145) -/

/-- The check passes exactly for the key numbers 0 to 15. -/
theorem keyFault_eq_none {k : Byte} : keyFault k = none ↔ k.toNat ≤ 15 := by
  unfold keyFault
  split
  · next h => simp; omega
  · next h => simp; omega

/-- The check fails exactly above 15, and reports the number. -/
theorem keyFault_eq_some {k : Byte} {r : FaultReport} :
    keyFault k = some r ↔ 15 < k.toNat ∧ r = .keyIndexOutOfRange k := by
  unfold keyFault
  split
  · next h => simp [eq_comm]; omega
  · next h => simp; omega

/-! ### The end of a Step -/

/-- A Step answers a next state exactly when its instruction does, with the boundary input used up. -/
theorem finishStep_eq_next {r : Result} {t : State} : finishStep r = .next t ↔ ∃ u, r = .next u ∧ t = u.endStep := by
  cases r <;> simp [finishStep, eq_comm]

end Sys2Proof.Machine
end

