-- ==== Sys2Proof/Laws/Frame.lean ====
section
/-! SUPPORT. Frames and faults in the terms of the statements, and the inversion lemmas of `exec`, `step`, `perform` and
`performAll`. -/

namespace Sys2Proof.Machine

/-! ### Frames -/

/-- Every part is the same as itself. -/
theorem Part.same_refl (p : Part) (s : State) : p.same s s := by
  cases p <;> simp [Part.same]

/-- Sameness of a part passes along. -/
theorem Part.same_trans {p : Part} {s t u : State} (h : p.same s t) (g : p.same t u) : p.same s u := by
  cases p <;> simp_all [Part.same]

/-- Nothing changes from a state to itself. -/
theorem Frame.refl (regs : List RegIdx) (parts : List Part) (s : State) : Frame regs parts s s :=
  ⟨fun _ _ => rfl, fun p _ => p.same_refl s⟩

/-- Frames compose. -/
theorem Frame.trans {regs : List RegIdx} {parts : List Part} {s t u : State} (h : Frame regs parts s t)
    (g : Frame regs parts t u) : Frame regs parts s u :=
  ⟨fun r hr => (g.1 r hr).trans (h.1 r hr), fun p hp => Part.same_trans (h.2 p hp) (g.2 p hp)⟩

/-- A wider frame is weaker. -/
theorem Frame.mono {regs regs' : List RegIdx} {parts parts' : List Part} {s t : State} (h : Frame regs parts s t)
    (hr : ∀ r ∈ regs, r ∈ regs') (hp : ∀ p ∈ parts, p ∈ parts') : Frame regs' parts' s t :=
  ⟨fun r hn => h.1 r fun hm => hn (hr r hm), fun p hn => h.2 p fun hm => hn (hp p hm)⟩

/-- Raising a fault changes the FAULT cell and reports, and does nothing else (60_exceptions.md R141). -/
theorem State.raise_raisesOnly (r : FaultReport) (s : State) : RaisesOnly r s (s.raise r) := by
  refine ⟨rfl, rfl, rfl, fun _ _ => rfl, fun p hp => ?_⟩
  cases p <;> simp_all [Part.same]

/-- The registers a load of V[0..x] may write. -/
theorem mem_regsWritten_ldRegs {x r : RegIdx} : r ∈ regsWritten (.ldRegs x) ↔ r.toNat ≤ x.toNat := by
  have hr := r.isLt
  have hx := x.isLt
  simp only [regsWritten, List.mem_map, List.mem_range]
  constructor
  · rintro ⟨k, hk, rfl⟩
    simp only [BitVec.toNat_ofNat]
    omega
  · intro h
    exact ⟨r.toNat, by omega, by simp⟩

/-! ### What exec and step can answer -/

/-- Every instruction answers a next state. -/
theorem exec_answers (i : Instr) (s : State) : ∃ t, exec i s = .next t := by
  cases i <;> exact ⟨_, rfl⟩

/-- A next state of `step` is that of the instruction fetched, or of the fetch's fault; the Step's input is then used up. -/
theorem step_eq_next {s t : State} :
    step s = .next t ↔ s.fault = .none ∧
      ((∃ op u, s.fetch = .ok op ∧ exec (decode op) s = .next u ∧ t = u.endStep) ∨
       (∃ r, s.fetch = .error r ∧ t = (s.raise r).endStep)) := by
  unfold step
  cases hf : s.fault <;> simp only [reduceCtorEq, false_and]
  cases hg : s.fetch with
  | ok op => simp [finishStep_eq_next]
  | error r => simp [finishStep, eq_comm]

/-- A sequence of actions that ends in a next state passes through a next state of its first. -/
theorem performAll_cons_eq_next {font : Font} {a : HostAction} {as : List HostAction} {s t : State} :
    performAll font (a :: as) s = .next t ↔ ∃ u, perform font a s = .next u ∧ performAll font as u = .next t := by
  simp only [performAll]
  cases perform font a s <;> simp

end Sys2Proof.Machine
end

