-- ==== Sys2Proof/Laws/PerInstr.lean ====
section
/-! SUPPORT. Facts about every instruction as syntax, one lemma per constructor. -/

namespace Sys2Proof.Laws.EncodingRow

/-- The canonical word of a well-formed instruction lies in the instruction's own row of the opcode map (30_encoding.md
R60); that of an unimplemented word lies among those R61 lists. -/
def Statement (i : Instr) : Prop :=
  i.wf = true →
    match i.rowNumber with
    | some k => ∃ r ∈ opcodeMap, r.number = k ∧ r.selects (encode i) = true
    | none => (encode i).unimplemented = true

/-- The row to show, by the three facts about it. -/
theorem of_row {i : Instr} (r : OpcodeRow) (hr : r ∈ opcodeMap) (hk : i.rowNumber = some r.number)
    (hs : encode i &&& r.mask = r.value) : Statement i := by
  intro _
  rw [hk]
  exact ⟨r, hr, rfl, beq_iff_eq.2 hs⟩

theorem cls : Statement .cls := of_row ⟨1, 0xF00F, 0x0000⟩ (by decide) rfl (by decide)

theorem ret : Statement .ret := of_row ⟨2, 0xF00F, 0x000E⟩ (by decide) rfl (by decide)

theorem jp (nnn : Addr12) : Statement (.jp nnn) :=
  of_row ⟨3, 0xF000, 0x1000⟩ (by decide) rfl ((Word.mask_F000 _ 0x1#4).2 (by simp [encode]))

theorem call (nnn : Addr12) : Statement (.call nnn) :=
  of_row ⟨4, 0xF000, 0x2000⟩ (by decide) rfl ((Word.mask_F000 _ 0x2#4).2 (by simp [encode]))

theorem seImm (x : RegIdx) (nn : Byte) : Statement (.seImm x nn) :=
  of_row ⟨5, 0xF000, 0x3000⟩ (by decide) rfl ((Word.mask_F000 _ 0x3#4).2 (by simp [encode]))

theorem sneImm (x : RegIdx) (nn : Byte) : Statement (.sneImm x nn) :=
  of_row ⟨6, 0xF000, 0x4000⟩ (by decide) rfl ((Word.mask_F000 _ 0x4#4).2 (by simp [encode]))

theorem seReg (x : RegIdx) (y : RegIdx) : Statement (.seReg x y) :=
  of_row ⟨7, 0xF000, 0x5000⟩ (by decide) rfl ((Word.mask_F000 _ 0x5#4).2 (by simp [encode]))

theorem ldImm (x : RegIdx) (nn : Byte) : Statement (.ldImm x nn) :=
  of_row ⟨8, 0xF000, 0x6000⟩ (by decide) rfl ((Word.mask_F000 _ 0x6#4).2 (by simp [encode]))

theorem addImm (x : RegIdx) (nn : Byte) : Statement (.addImm x nn) :=
  of_row ⟨9, 0xF000, 0x7000⟩ (by decide) rfl ((Word.mask_F000 _ 0x7#4).2 (by simp [encode]))

theorem ldReg (x : RegIdx) (y : RegIdx) : Statement (.ldReg x y) :=
  of_row ⟨10, 0xF00F, 0x8000⟩ (by decide) rfl ((Word.mask_F00F _ 0x8#4 0x0#4).2 (by simp [encode]))

theorem orReg (x : RegIdx) (y : RegIdx) : Statement (.orReg x y) :=
  of_row ⟨11, 0xF00F, 0x8001⟩ (by decide) rfl ((Word.mask_F00F _ 0x8#4 0x1#4).2 (by simp [encode]))

theorem andReg (x : RegIdx) (y : RegIdx) : Statement (.andReg x y) :=
  of_row ⟨12, 0xF00F, 0x8002⟩ (by decide) rfl ((Word.mask_F00F _ 0x8#4 0x2#4).2 (by simp [encode]))

theorem xorReg (x : RegIdx) (y : RegIdx) : Statement (.xorReg x y) :=
  of_row ⟨13, 0xF00F, 0x8003⟩ (by decide) rfl ((Word.mask_F00F _ 0x8#4 0x3#4).2 (by simp [encode]))

theorem addReg (x : RegIdx) (y : RegIdx) : Statement (.addReg x y) :=
  of_row ⟨14, 0xF00F, 0x8004⟩ (by decide) rfl ((Word.mask_F00F _ 0x8#4 0x4#4).2 (by simp [encode]))

theorem subReg (x : RegIdx) (y : RegIdx) : Statement (.subReg x y) :=
  of_row ⟨15, 0xF00F, 0x8005⟩ (by decide) rfl ((Word.mask_F00F _ 0x8#4 0x5#4).2 (by simp [encode]))

theorem shr (x : RegIdx) : Statement (.shr x) :=
  of_row ⟨16, 0xF00F, 0x8006⟩ (by decide) rfl ((Word.mask_F00F _ 0x8#4 0x6#4).2 (by simp [encode]))

theorem subn (x : RegIdx) (y : RegIdx) : Statement (.subn x y) :=
  of_row ⟨17, 0xF00F, 0x8007⟩ (by decide) rfl ((Word.mask_F00F _ 0x8#4 0x7#4).2 (by simp [encode]))

theorem shl (x : RegIdx) : Statement (.shl x) :=
  of_row ⟨18, 0xF00F, 0x800E⟩ (by decide) rfl ((Word.mask_F00F _ 0x8#4 0xE#4).2 (by simp [encode]))

theorem sneReg (x : RegIdx) (y : RegIdx) : Statement (.sneReg x y) :=
  of_row ⟨19, 0xF000, 0x9000⟩ (by decide) rfl ((Word.mask_F000 _ 0x9#4).2 (by simp [encode]))

theorem ldI (nnn : Addr12) : Statement (.ldI nnn) :=
  of_row ⟨20, 0xF000, 0xA000⟩ (by decide) rfl ((Word.mask_F000 _ 0xA#4).2 (by simp [encode]))

theorem jpV0 (nnn : Addr12) : Statement (.jpV0 nnn) :=
  of_row ⟨21, 0xF000, 0xB000⟩ (by decide) rfl ((Word.mask_F000 _ 0xB#4).2 (by simp [encode]))

theorem rnd (x : RegIdx) (nn : Byte) : Statement (.rnd x nn) :=
  of_row ⟨22, 0xF000, 0xC000⟩ (by decide) rfl ((Word.mask_F000 _ 0xC#4).2 (by simp [encode]))

theorem drw (x : RegIdx) (y : RegIdx) (n : Nibble) : Statement (.drw x y n) :=
  of_row ⟨23, 0xF000, 0xD000⟩ (by decide) rfl ((Word.mask_F000 _ 0xD#4).2 (by simp [encode]))

theorem skp (x : RegIdx) : Statement (.skp x) :=
  of_row ⟨24, 0xF0FF, 0xE09E⟩ (by decide) rfl ((Word.mask_F0FF _ 0xE#4 0x9E#8).2 (by simp [encode]))

theorem sknp (x : RegIdx) : Statement (.sknp x) :=
  of_row ⟨25, 0xF0FF, 0xE0A1⟩ (by decide) rfl ((Word.mask_F0FF _ 0xE#4 0xA1#8).2 (by simp [encode]))

theorem ldVxDt (x : RegIdx) : Statement (.ldVxDt x) :=
  of_row ⟨26, 0xF0FF, 0xF007⟩ (by decide) rfl ((Word.mask_F0FF _ 0xF#4 0x07#8).2 (by simp [encode]))

theorem ldVxK (x : RegIdx) : Statement (.ldVxK x) :=
  of_row ⟨27, 0xF0FF, 0xF00A⟩ (by decide) rfl ((Word.mask_F0FF _ 0xF#4 0x0A#8).2 (by simp [encode]))

theorem ldDtVx (x : RegIdx) : Statement (.ldDtVx x) :=
  of_row ⟨28, 0xF0FF, 0xF015⟩ (by decide) rfl ((Word.mask_F0FF _ 0xF#4 0x15#8).2 (by simp [encode]))

theorem ldStVx (x : RegIdx) : Statement (.ldStVx x) :=
  of_row ⟨29, 0xF0FF, 0xF018⟩ (by decide) rfl ((Word.mask_F0FF _ 0xF#4 0x18#8).2 (by simp [encode]))

theorem addI (x : RegIdx) : Statement (.addI x) :=
  of_row ⟨30, 0xF0FF, 0xF01E⟩ (by decide) rfl ((Word.mask_F0FF _ 0xF#4 0x1E#8).2 (by simp [encode]))

theorem ldF (x : RegIdx) : Statement (.ldF x) :=
  of_row ⟨31, 0xF0FF, 0xF029⟩ (by decide) rfl ((Word.mask_F0FF _ 0xF#4 0x29#8).2 (by simp [encode]))

theorem ldB (x : RegIdx) : Statement (.ldB x) :=
  of_row ⟨32, 0xF0FF, 0xF033⟩ (by decide) rfl ((Word.mask_F0FF _ 0xF#4 0x33#8).2 (by simp [encode]))

theorem stRegs (x : RegIdx) : Statement (.stRegs x) :=
  of_row ⟨33, 0xF0FF, 0xF055⟩ (by decide) rfl ((Word.mask_F0FF _ 0xF#4 0x55#8).2 (by simp [encode]))

theorem ldRegs (x : RegIdx) : Statement (.ldRegs x) :=
  of_row ⟨34, 0xF0FF, 0xF065⟩ (by decide) rfl ((Word.mask_F0FF _ 0xF#4 0x65#8).2 (by simp [encode]))

theorem unimpl (op : Word) : Statement (.unimpl op) := fun h => h

end Sys2Proof.Laws.EncodingRow
end

