-- ==== Sys2Proof/Tests/Slice0.lean ====
section
/-! SUPPORT. Tests of one step each, with expected results from spec/95_test_vectors.md (V<n>, S<n>) and from the examples of
the instruction rules; ill-formed terms that WellFormed refuses; words written out from the encodings; and witnesses that
the hypotheses of the statements can be met. -/

namespace Sys2Proof.Tests

open Sys2Proof Sys2Proof.Machine

/-! ### Helpers -/

/-- The next state, if there is one. -/
def nextOf : Result → Option State
  | .next s => some s
  | .fault _ => none
  | .refused _ => none

/-- The state after reset with a word placed at 0x200. -/
def prog (op : Word) : State := State.reset.placeWord op

/-- What one step from a state leaves, seen through a projection. -/
def after {α : Type} (s : State) (f : State → α) : Option α := (nextOf (step s)).map f

/-- A state whose next Step finds these keys pressed, this random byte, and this choice among the pressed keys. -/
def withInput (s : State) (keys : BitVec 16) (random : Byte) (pick : BitVec 4) : State :=
  { s with oracle := [⟨keys, random, pick⟩] }

/-! ### WellFormed refuses (30_encoding.md R61: no implemented word stands for an unimplemented one) -/

theorem test_wf_refuses_cls : (Instr.unimpl 0x00E0).wf = false := by decide
theorem test_wf_refuses_ret : (Instr.unimpl 0x0ABE).wf = false := by decide
theorem test_wf_refuses_family8 : (Instr.unimpl 0x8127).wf = false := by decide
theorem test_wf_refuses_familyE : (Instr.unimpl 0xE19E).wf = false := by decide
theorem test_wf_refuses_familyF : (Instr.unimpl 0xF365).wf = false := by decide
theorem test_wf_refuses_full_family : (Instr.unimpl 0xD000).wf = false := by decide
theorem test_wf_accepts_unimplemented :
    (Instr.unimpl 0x00E1).wf = true ∧ (Instr.unimpl 0x812F).wf = true ∧ (Instr.unimpl 0xE19F).wf = true ∧
    (Instr.unimpl 0xF175).wf = true := by decide

/-! ### Decoding: words written out from 30_encoding.md R60, every constructor -/

theorem test_decode_family0 :
    decode 0x00E0 = .cls ∧ decode 0x0000 = .cls ∧ decode 0x0120 = .cls ∧ decode 0x00EE = .ret ∧ decode 0x0ABE = .ret ∧
    decode 0x00E1 = .unimpl 0x00E1 := by decide
theorem test_decode_jumps :
    decode 0x1234 = .jp 0x234 ∧ decode 0x2300 = .call 0x300 ∧ decode 0xB3F1 = .jpV0 0x3F1 := by decide
theorem test_decode_skips :
    decode 0x332A = .seImm 3 0x2A ∧ decode 0x432A = .sneImm 3 0x2A ∧ decode 0x512F = .seReg 1 2 ∧
    decode 0x9127 = .sneReg 1 2 := by decide
theorem test_decode_immediates :
    decode 0x6A7F = .ldImm 0xA 0x7F ∧ decode 0x7020 = .addImm 0 0x20 ∧ decode 0xA2F0 = .ldI 0x2F0 ∧
    decode 0xC10F = .rnd 1 0x0F := by decide
theorem test_decode_family8 :
    decode 0x8120 = .ldReg 1 2 ∧ decode 0x8121 = .orReg 1 2 ∧ decode 0x8122 = .andReg 1 2 ∧ decode 0x8123 = .xorReg 1 2 ∧
    decode 0x8124 = .addReg 1 2 ∧ decode 0x8125 = .subReg 1 2 ∧ decode 0x8126 = .shr 1 ∧ decode 0x8127 = .subn 1 2 ∧
    decode 0x812E = .shl 1 ∧ decode 0x8128 = .unimpl 0x8128 := by decide
theorem test_decode_families_D_E :
    decode 0xD125 = .drw 1 2 5 ∧ decode 0xE19E = .skp 1 ∧ decode 0xE1A1 = .sknp 1 ∧
    decode 0xE19F = .unimpl 0xE19F := by decide
theorem test_decode_familyF :
    decode 0xF107 = .ldVxDt 1 ∧ decode 0xF30A = .ldVxK 3 ∧ decode 0xF115 = .ldDtVx 1 ∧ decode 0xF118 = .ldStVx 1 ∧
    decode 0xF11E = .addI 1 ∧ decode 0xF129 = .ldF 1 ∧ decode 0xF133 = .ldB 1 ∧ decode 0xF255 = .stRegs 2 ∧
    decode 0xF265 = .ldRegs 2 ∧ decode 0xF108 = .unimpl 0xF108 := by decide
theorem test_decode_bytes_high_byte_first :
    decodeBytes [0x12, 0x34, 0xFF] = .ok (.jp 0x234, [0xFF]) ∧ decodeBytes [0x12] = .error .truncated := by decide
theorem test_table_word : decodeTableWord 16 0xD125 = some (.drw 1 2 5) := by decide
theorem test_encode_canonical :
    encode .cls = 0x00E0 ∧ encode .ret = 0x00EE ∧ encode (.seReg 1 2) = 0x5120 ∧ encode (.shr 1) = 0x8106 ∧
    encode (.shl 1) = 0x810E ∧ encode (.drw 1 2 5) = 0xD125 ∧ encode (.ldRegs 2) = 0xF265 := by decide

/-! ### Families 0, 1, 2 (40_flow.md) -/

/-- V1: all pixels off, PC = 0x202. -/
theorem test_cls :
    after { prog 0x00E0 with display := Display.blank.flip 3 4 } (fun t => (t.pc, t.display.pixel 3 4, t.events)) =
      some (0x202, false, [.displayClear]) := by decide
/-- V5. -/
theorem test_ret :
    after { prog 0x00EE with sp := 2, stk := State.reset.stk.set 1 0x456 } (fun t => (t.pc, t.sp)) =
      some (0x456, 1) := by decide
/-- V6. -/
theorem test_ret_underflow :
    after (prog 0x00EE) (fun t => (t.pc, t.sp, t.fault)) = some (0x200, 0, .stackUnderflow) := by decide
/-- R72's example. -/
theorem test_jp : after (prog 0x1234) State.pc = some 0x234 := by decide
/-- V12: the last slot. -/
theorem test_call_last_slot :
    after { prog 0x2300 with sp := 15 } (fun t => (t.pc, t.sp, t.slot 15, t.fault)) =
      some (0x300, 16, 0x202, .none) := by decide
/-- V11. -/
theorem test_call_overflow :
    after { prog 0x2300 with sp := 16 } (fun t => (t.pc, t.sp, t.fault, t.events)) =
      some (0x200, 16, .stackOverflow, [.faultReport .stackOverflow]) := by decide

/-! ### Families 3, 4, 5, 9 (S5) -/

theorem test_se_imm :
    after ((prog 0x3107).setReg 1 7) State.pc = some 0x204 ∧ after ((prog 0x3108).setReg 1 7) State.pc = some 0x202 := by
  decide
theorem test_sne_imm :
    after ((prog 0x4107).setReg 1 7) State.pc = some 0x202 ∧ after ((prog 0x4108).setReg 1 7) State.pc = some 0x204 := by
  decide
theorem test_se_reg :
    after (((prog 0x5120).setReg 1 7).setReg 2 7) State.pc = some 0x204 ∧
    after (((prog 0x5130).setReg 1 7).setReg 3 8) State.pc = some 0x202 := by decide
theorem test_sne_reg :
    after (((prog 0x9120).setReg 1 7).setReg 2 7) State.pc = some 0x202 ∧
    after (((prog 0x9130).setReg 1 7).setReg 3 8) State.pc = some 0x204 := by decide
/-- V18: at the top of memory the skip leaves PC = 0x1002. -/
theorem test_skip_at_top :
    after ({ State.reset with pc := 0xFFE }.placeWord 0x3000) State.pc = some 0x1002 := by decide

/-! ### Families 6, 7 (42_imm.md) -/

/-- V19. -/
theorem test_ld_imm_vf : after (prog 0x6FAB) (fun t => (t.reg 0xF, t.pc)) = some (0xAB, 0x202) := by decide
/-- V21: no carry is written. -/
theorem test_add_imm_wraps :
    after (((prog 0x70FF).setReg 0 0xFF).setReg 0xF 1) (fun t => (t.reg 0, t.reg 0xF)) = some (0xFE, 1) := by decide

/-! ### Family 8 (43_alu.md) -/

/-- V24. -/
theorem test_ld_reg : after ((prog 0x8120).setReg 2 0x5C) (fun t => (t.reg 1, t.reg 2)) = some (0x5C, 0x5C) := by decide
/-- V25: VF is not cleared. -/
theorem test_or :
    after ((((prog 0x8121).setReg 1 0xF0).setReg 2 0x0F).setReg 0xF 7) (fun t => (t.reg 1, t.reg 0xF)) =
      some (0xFF, 7) := by decide
/-- V26. -/
theorem test_and : after (((prog 0x8122).setReg 1 0xF0).setReg 2 0x3C) (fun t => t.reg 1) = some 0x30 := by decide
/-- V27. -/
theorem test_xor : after (((prog 0x8123).setReg 1 0xF0).setReg 2 0x3C) (fun t => t.reg 1) = some 0xCC := by decide
/-- V29. -/
theorem test_add_carry :
    after (((prog 0x8124).setReg 1 0xC8).setReg 2 0x64) (fun t => (t.reg 1, t.reg 0xF)) = some (0x2C, 1) := by decide
/-- V54: the old VF is the addend. -/
theorem test_add_reads_vf_first :
    after (((prog 0x81F4).setReg 1 0xFE).setReg 0xF 0x03) (fun t => (t.reg 1, t.reg 0xF)) = some (0x01, 1) := by decide
/-- V36 and V35. -/
theorem test_sub :
    after ((prog 0x8125).setReg 2 1) (fun t => (t.reg 1, t.reg 0xF)) = some (0xFF, 0) ∧
    after (((prog 0x8125).setReg 1 5).setReg 2 5) (fun t => (t.reg 1, t.reg 0xF)) = some (0, 1) := by decide
/-- V38: Vy is ignored. -/
theorem test_shr :
    after (((prog 0x8126).setReg 1 0x80).setReg 2 1) (fun t => (t.reg 1, t.reg 0xF, t.reg 2)) = some (0x40, 0, 1) := by
  decide
/-- V51. -/
theorem test_shr_vf : after ((prog 0x8F06).setReg 0xF 0xFF) (fun t => t.reg 0xF) = some 0 := by decide
/-- V41. -/
theorem test_subn :
    after (((prog 0x8127).setReg 1 0x20).setReg 2 0x10) (fun t => (t.reg 1, t.reg 0xF)) = some (0xF0, 0) := by decide
/-- V44: the flag is 1, not 0x80. -/
theorem test_shl : after ((prog 0x810E).setReg 1 0x80) (fun t => (t.reg 1, t.reg 0xF)) = some (0, 1) := by decide
/-- V52. -/
theorem test_shl_vf : after ((prog 0x8F0E).setReg 0xF 0xFF) (fun t => t.reg 0xF) = some 2 := by decide

/-! ### Families A, B, C (44_misc.md) -/

/-- V56. -/
theorem test_ld_i : after (prog 0xAFFF) (fun t => (t.i, t.pc)) = some (0x0FFF, 0x202) := by decide
/-- V58 and V59: V0, not Vx, and no mask. -/
theorem test_jp_v0 :
    after ((prog 0xBFFF).setReg 0 0xFF) State.pc = some 0x10FE ∧
    after (((prog 0xB300).setReg 0 1).setReg 3 0x80) State.pc = some 0x301 := by decide
/-- V60. -/
theorem test_rnd : after (withInput (prog 0xC10F) 0 0xA7 0) (fun t => t.reg 1) = some 0x07 := by decide

/-! ### Families D, E (45_draw_key.md) -/

/-- S4: the row wraps at the right edge; no collision on a blank screen. -/
theorem test_drw_wraps :
    after { ((prog 0xD011).setReg 0 60).setReg 1 28 with i := 0x20A, mem := (prog 0xD011).mem.write 0x20A 0xFF }
      (fun t => (t.display.pixel 63 28, t.display.pixel 0 28, t.display.pixel 3 28, t.display.pixel 4 28, t.reg 0xF)) =
      some (true, true, true, false, 0) := by decide
/-- V67: a row above 0xFFF; nothing drawn, VF and PC unchanged. -/
theorem test_drw_fault :
    after { (prog 0xD003).setReg 0xF 9 with i := 0xFFE } (fun t => (t.fault, t.pc, t.reg 0xF, t.events)) =
      some (.addressOutOfRange, 0x200, 9, [.faultReport (.addressOutOfRange 0x1000)]) := by decide
/-- V69 and V70. -/
theorem test_skp :
    after (withInput ((prog 0xE19E).setReg 1 5) 0x0020 0 0) State.pc = some 0x204 ∧
    after (withInput ((prog 0xE19E).setReg 1 5) 0xFFDF 0 0) State.pc = some 0x202 := by decide
/-- V73. -/
theorem test_skp_fault :
    after ((prog 0xE19E).setReg 1 0x10) (fun t => (t.fault, t.pc, t.events)) =
      some (.keyIndexOutOfRange, 0x200, [.faultReport (.keyIndexOutOfRange 0x10)]) := by decide
/-- V71 and V72. -/
theorem test_sknp :
    after (withInput ((prog 0xE1A1).setReg 1 5) 0x0020 0 0) State.pc = some 0x202 ∧
    after (withInput ((prog 0xE1A1).setReg 1 5) 0x0000 0 0) State.pc = some 0x204 := by decide

/-! ### Family F (46_f_family.md) -/

/-- V76. -/
theorem test_ld_vx_dt : after { prog 0xF107 with dt := 0x3C } (fun t => (t.reg 1, t.dt)) = some (0x3C, 0x3C) := by decide
/-- V77: waiting. -/
theorem test_ld_vx_k_waits : after (withInput (prog 0xF30A) 0 0 0) (fun t => (t.pc, t.reg 3)) = some (0x200, 0) := by decide
/-- V79: either of two pressed keys. -/
theorem test_ld_vx_k_either :
    after (withInput (prog 0xF30A) 0x0480 0 0) (fun t => (t.pc, t.reg 3)) = some (0x202, 0x07) ∧
    after (withInput (prog 0xF30A) 0x0480 0 1) (fun t => (t.pc, t.reg 3)) = some (0x202, 0x0A) := by decide
/-- V81. -/
theorem test_ld_dt : after ((prog 0xF115).setReg 1 0x3C) State.dt = some 0x3C := by decide
/-- V82. -/
theorem test_ld_st_silent : after { prog 0xF118 with st := 5 } (fun t => (t.st, t.events)) = some (0, []) := by decide
/-- V84 and V85. -/
theorem test_add_i :
    after { (prog 0xF11E).setReg 1 1 with i := 0x0FFF } (fun t => (t.i, t.reg 0xF)) = some (0x1000, 0) ∧
    after { (prog 0xF11E).setReg 1 0x20 with i := 0xFFF0 } (fun t => t.i) = some 0x0010 := by decide
/-- V86 and V87. -/
theorem test_ld_f :
    after ((prog 0xF129).setReg 1 0x0A) State.i = some 0x0032 ∧
    after ((prog 0xF129).setReg 1 0xFF) State.i = some 0x04FB := by decide
/-- V91: the three last bytes of memory. -/
theorem test_ld_b :
    after { (prog 0xF133).setReg 1 123 with i := 0xFFD } (fun t => (t.mem.loadBytes 0xFFD 3, t.pc)) =
      some ([1, 2, 3], 0x202) := by decide
/-- V90. -/
theorem test_ld_b_fault :
    after { (prog 0xF133).setReg 1 123 with i := 0xFFE } (fun t => (t.fault, t.mem, t.pc)) =
      some (.addressOutOfRange, (prog 0xF133).mem, 0x200) := by decide
/-- V92. -/
theorem test_st_regs :
    after { ((((prog 0xF255).setReg 0 0x11).setReg 1 0x22).setReg 2 0x33).setReg 3 0x44 with i := 0x300 }
      (fun t => (t.mem.loadBytes 0x300 4, t.i)) = some ([0x11, 0x22, 0x33, 0x00], 0x300) := by decide
/-- V93. -/
theorem test_st_regs_fault :
    after { prog 0xFF55 with i := 0xFF1 } (fun t => (t.fault, t.events, t.pc)) =
      some (.addressOutOfRange, [.faultReport (.addressOutOfRange 0x1000)], 0x200) := by decide
/-- V96: glyph 0 of the default font; V5 keeps its value. -/
theorem test_ld_regs :
    after ((prog 0xF465).setReg 5 7) (fun t => ([t.reg 0, t.reg 1, t.reg 2, t.reg 3, t.reg 4, t.reg 5], t.i)) =
      some ([0xF0, 0x90, 0x90, 0x90, 0xF0, 7], 0) := by decide
/-- V97. -/
theorem test_ld_regs_fault :
    after { (prog 0xF065).setReg 0 9 with i := 0x1000 } (fun t => (t.fault, t.reg 0)) =
      some (.addressOutOfRange, 9) := by decide

/-! ### Unimplemented words, fetch, the stopped machine -/

/-- V47. -/
theorem test_unimpl :
    after (((prog 0x8128).setReg 1 1).setReg 2 2) (fun t => (t.pc, t.reg 1, t.events, t.fault)) =
      some (0x202, 1, [.unimplementedOpcode 0x8128 0x200], .none) := by decide
/-- V8: PC = 0xFFF; V58: PC = 0x10FE. -/
theorem test_fetch_fault :
    after { State.reset with pc := 0xFFF } (fun t => (t.pc, t.events)) =
      some (0xFFF, [.faultReport (.addressOutOfRange 0x1000)]) ∧
    after { State.reset with pc := 0x10FE } (fun t => (t.pc, t.events)) =
      some (0x10FE, [.faultReport (.addressOutOfRange 0x10FE)]) := by decide
/-- 60_exceptions.md R141: a stopped machine does not step. -/
theorem test_stopped : step { State.reset with fault := .stackOverflow } = .fault (.stopped .stackOverflow) := rfl

/-! ### Reset, Load, Tick -/

/-- V103 and V104: the silence event exactly once. -/
theorem test_tick :
    (tick { State.reset with dt := 4, st := 1 }).dt = 3 ∧ (tick { State.reset with dt := 4, st := 1 }).st = 0 ∧
    (tick { State.reset with dt := 4, st := 1 }).events = [.silence] ∧ (tick { State.reset with dt := 3 }).events = [] := by
  decide
/-- V112: an odd length is accepted. -/
theorem test_load : (loadProgram [0x12, 0x00, 0xFF] State.reset).mem.loadBytes 0x200 4 = [0x12, 0x00, 0xFF, 0x00] := by
  decide
/-- V110: 3585 bytes. -/
theorem test_load_too_large :
    loadProgram (List.replicate 3585 1) State.reset = State.reset.emit .programTooLarge := by
  rw [loadProgram, if_pos (by rw [List.length_replicate]; decide)]
/-- V108, V113: the font's ends, ST = 0 and no silence event; the fill is whatever the Reset brings. -/
theorem test_reset :
    (resetMachine defaultFont [0xAB] { State.reset with st := 7 }).mem.loadBytes 0x4B 7 = [0xF0, 0x80, 0xF0, 0x80, 0x80, 0xAB, 0x00] ∧
    (resetMachine defaultFont [0xAB] { State.reset with st := 7 }).st = 0 ∧
    (resetMachine defaultFont [0xAB] { State.reset with st := 7 }).events = [] := by decide
/-- 10_state.md R25, decision D12: FONT is a parameter; the last glyph's rows are where LD F, Vx points. -/
theorem test_reset_font :
    (resetMachine (Vector.ofFn fun k => BitVec.ofNat 8 k.val) [] State.reset).mem.loadBytes 75 6 = [75, 76, 77, 78, 79, 0] := by
  decide
/-- 70_reset_and_hazards.md R175: the boot order is allowed, a Step before the first Reset or after a failed Load is not. -/
theorem test_protocol :
    HostPhase.beforeReset.allows [.reset [], .load [0x12, 0x00], .tick, .step ⟨0, 0, 0⟩] = true ∧
    HostPhase.beforeReset.allows [.step ⟨0, 0, 0⟩] = false ∧ HostPhase.loadFailed.allows [.step ⟨0, 0, 0⟩] = false := by
  decide

/-! ### Witnesses: the hypotheses of each statement can be met, each clause at a boundary of its range -/

theorem witness_EncodedAs_families_0_to_7 :
    (0x0FF0#16 &&& 0xF00F = 0x0000) ∧ (0x0ABE#16 &&& 0xF00F = 0x000E) ∧ (0x1FFF#16 &&& 0xF000 = 0x1000) ∧
    (0x2FFF#16 &&& 0xF000 = 0x2000) ∧ (0x3FFF#16 &&& 0xF000 = 0x3000) ∧ (0x4FFF#16 &&& 0xF000 = 0x4000) ∧
    (0x5FFF#16 &&& 0xF000 = 0x5000) ∧ (0x6FFF#16 &&& 0xF000 = 0x6000) ∧ (0x7FFF#16 &&& 0xF000 = 0x7000) := by decide
theorem witness_EncodedAs_families_8_to_D :
    (0x8FF0#16 &&& 0xF00F = 0x8000) ∧ (0x8FF1#16 &&& 0xF00F = 0x8001) ∧ (0x8FF2#16 &&& 0xF00F = 0x8002) ∧
    (0x8FF3#16 &&& 0xF00F = 0x8003) ∧ (0x8FF4#16 &&& 0xF00F = 0x8004) ∧ (0x8FF5#16 &&& 0xF00F = 0x8005) ∧
    (0x8FF6#16 &&& 0xF00F = 0x8006) ∧ (0x8FF7#16 &&& 0xF00F = 0x8007) ∧ (0x8FFE#16 &&& 0xF00F = 0x800E) ∧
    (0x9FFF#16 &&& 0xF000 = 0x9000) ∧ (0xAFFF#16 &&& 0xF000 = 0xA000) ∧ (0xBFFF#16 &&& 0xF000 = 0xB000) ∧
    (0xCFFF#16 &&& 0xF000 = 0xC000) ∧ (0xDFFF#16 &&& 0xF000 = 0xD000) := by decide
theorem witness_EncodedAs_families_E_F :
    (0xEF9E#16 &&& 0xF0FF = 0xE09E) ∧ (0xEFA1#16 &&& 0xF0FF = 0xE0A1) ∧ (0xFF07#16 &&& 0xF0FF = 0xF007) ∧
    (0xFF0A#16 &&& 0xF0FF = 0xF00A) ∧ (0xFF15#16 &&& 0xF0FF = 0xF015) ∧ (0xFF18#16 &&& 0xF0FF = 0xF018) ∧
    (0xFF1E#16 &&& 0xF0FF = 0xF01E) ∧ (0xFF29#16 &&& 0xF0FF = 0xF029) ∧ (0xFF33#16 &&& 0xF0FF = 0xF033) ∧
    (0xFF55#16 &&& 0xF0FF = 0xF055) ∧ (0xFF65#16 &&& 0xF0FF = 0xF065) := by decide
theorem witness_DecodeOfEncode : (Instr.drw 0xF 0xF 0xF).wf = true ∧ (Instr.unimpl 0x00E1).wf = true := by decide
theorem witness_OpcodeMap :
    ⟨34, 0xF0FF, 0xF065⟩ ∈ opcodeMap ∧ (OpcodeRow.mk 34 0xF0FF 0xF065).selects 0xFF65 = true := by decide
theorem witness_IgnoredFields :
    Word.hi 0x0FF0 = 0x0 ∧ Word.n 0x0FF0 = 0x0 ∧ Word.n 0x0ABE = 0xE ∧ Word.hi 0x5FFF = 0x5 ∧ Word.hi 0x9FFF = 0x9 ∧
    Word.hi 0x8FF6 = 0x8 ∧ Word.n 0x8FF6 = 0x6 ∧ Word.n 0x8FFE = 0xE := by decide
/-- PC = 0xFFE, the last address an instruction can be fetched from. -/
theorem witness_StepRuns :
    let s := { State.reset with pc := 0xFFE }.placeWord 0x1234
    s.fault = .none ∧ s.pc.toNat ≤ 0xFFE ∧ (Instr.jp 0x234).wf = true ∧
      decodeBytes [s.mem.read s.pc.toNat, s.mem.read (s.pc.toNat + 1)] = .ok (.jp 0x234, []) ∧
      exec (.jp 0x234) s = .next (s.jump 0x234) := by
  refine ⟨rfl, by decide, by decide, by decide, rfl⟩
theorem witness_FetchBeyond :
    ({ State.reset with pc := 0xFFF } : State).fault = .none ∧ 0xFFE < ({ State.reset with pc := 0xFFF } : State).pc.toNat ∧
    0xFFF < ({ State.reset with pc := 0x1000 } : State).pc.toNat := by decide
theorem witness_StepIsEnabled :
    State.reset.fault = .none ∧ ({ State.reset with fault := .keyIndexOutOfRange } : State).fault ≠ .none := by decide
theorem witness_PlacedWord :
    ({ State.reset with pc := 0xFFE } : State).mem.wf = true ∧ ({ State.reset with pc := 0xFFE } : State).pc.toNat ≤ 0xFFE := by
  decide
theorem witness_Jump_to_itself : State.reset.pc.toNat = (0x200 : Addr12).toNat := by decide
theorem witness_Call :
    ({ State.reset with sp := 15 } : State).sp ≠ 16 ∧ ({ State.reset with sp := 16 } : State).sp = 16 := by decide
theorem witness_Return : ({ State.reset with sp := 1 } : State).sp ≠ 0 ∧ State.reset.sp = 0 := by decide
theorem witness_SixteenCalls : State.reset.sp = 0 ∧ (List.replicate 16 (0x200 : Addr12)).length = 16 := by decide
theorem witness_AddSub_Shifts : (0xE : RegIdx) ≠ vf ∧ (0xF : RegIdx) = vf := by decide
theorem witness_RandomIsMasked : (0x0F : Byte).getLsbD 4 = false := by decide
/-- The empty sprite at any I, the last valid run, and the first invalid one. -/
theorem witness_Draw :
    (0x0 : Nibble).toNat = 0 ∧ ({ State.reset with i := 0xFF1 } : State).i.toNat + ((0xF : Nibble).toNat - 1) ≤ 0xFFF ∧
    (0 < (0xF : Nibble).toNat ∧ 0xFFF < ({ State.reset with i := 0xFF2 } : State).i.toNat + ((0xF : Nibble).toNat - 1)) := by
  decide
theorem witness_DrawContract :
    (List.replicate 15 (0x81 : Byte)).length ≤ 15 ∧ Display.covers [0x80] 63 31 63 31 = true ∧
    Display.covers [0x01] 63 31 6 31 = true ∧ (Display.blank.flip 63 31).pixel 63 31 = true ∧
    Display.blank.pixel 63 31 = false := by decide
theorem witness_SkipsOnKeys :
    ((State.reset.setReg 1 15).reg 1).toNat ≤ 15 ∧ 15 < ((State.reset.setReg 1 16).reg 1).toNat := by decide
theorem witness_KeyWait_none : ∀ k, k < 16 → (withInput State.reset 0 0 0).input.isPressed k = false := by decide
theorem witness_KeyWait_pressed : (15 < 16) ∧ (withInput State.reset 0x8000 0 0).input.isPressed 15 = true := by decide
theorem witness_Bcd :
    State.reset.mem.wf = true ∧ ({ State.reset with i := 0xFFD } : State).i.toNat + 2 ≤ 0xFFF ∧
    0xFFF < ({ State.reset with i := 0xFFE } : State).i.toNat + 2 := by decide
theorem witness_DumpAndLoad :
    State.reset.mem.wf = true ∧ ({ State.reset with i := 0xFF0 } : State).i.toNat + (0xF : RegIdx).toNat ≤ 0xFFF ∧
    0xFFF < ({ State.reset with i := 0xFF1 } : State).i.toNat + (0xF : RegIdx).toNat ∧
    (0xF : RegIdx).toNat ≤ (0xF : RegIdx).toNat ∧ (0xE : RegIdx).toNat < (0xF : RegIdx).toNat := by decide
theorem witness_StoredBytesAreFetched :
    State.reset.mem.wf = true ∧ 1 ≤ (1 : RegIdx).toNat ∧
    ({ State.reset with i := 0xFFE } : State).i.toNat + (1 : RegIdx).toNat ≤ 0xFFF := by decide
theorem witness_Unimplemented :
    Word.unimplemented 0x0FFF = true ∧ Word.unimplemented 0x8FFF = true ∧ Word.unimplemented 0xEFFF = true ∧
    Word.unimplemented 0xFFFF = true := by decide
theorem witness_InstructionsKeepTheirFrame : exec (.ldI 0x300) State.reset = .next (State.reset.setIndex 0x300).advance := rfl
/-- Each of the four faults is reached by an instruction that raises it. -/
theorem witness_Faults :
    State.reset.fault = .none ∧ exec .ret State.reset = .next (State.reset.raise .stackUnderflow) ∧
    exec (.call 0x200) { State.reset with sp := 16 } =
      .next ({ State.reset with sp := 16 }.raise .stackOverflow) ∧
    exec (.ldB 0) { State.reset with i := 0xFFE } =
      .next ({ State.reset with i := 0xFFE }.raise (.addressOutOfRange 0x1000)) ∧
    exec (.skp 1) (State.reset.setReg 1 16) = .next ((State.reset.setReg 1 16).raise (.keyIndexOutOfRange 16)) ∧
    (State.reset.raise .stackUnderflow).fault ≠ .none := by
  refine ⟨rfl, rfl, rfl, rfl, rfl, by decide⟩
theorem witness_MemoryWriters :
    State.reset.mem.wf = true ∧ (List.replicate 3584 (0 : Byte)).length ≤ 3584 ∧
    3584 < (List.replicate 3585 (0 : Byte)).length ∧ (∀ x, Instr.ret ≠ .ldB x) ∧ (∀ x, Instr.ret ≠ .stRegs x) := by
  refine ⟨by decide, by rw [List.length_replicate], by rw [List.length_replicate]; decide, nofun, nofun⟩
theorem witness_InputsReachOnlyFour :
    (∀ x nn, Instr.ret ≠ .rnd x nn) ∧ (∀ x, Instr.ret ≠ .skp x) ∧ (∀ x, Instr.ret ≠ .sknp x) ∧
    (∀ x, Instr.ret ≠ .ldVxK x) ∧ exec .ret State.reset = .next (State.reset.raise .stackUnderflow) :=
  ⟨nofun, nofun, nofun, nofun, rfl⟩
theorem witness_DisplayReachesOnlyVf :
    exec .cls State.reset = .next State.reset.clearDisplay.advance ∧ (∀ x y n, Instr.cls ≠ .drw x y n) := ⟨rfl, nofun⟩
theorem witness_StepKeepsTheInvariant :
    ({ State.reset with pc := 0x10FE } : State).Inv ∧ (nextOf (step { State.reset with pc := 0x10FE })).isSome = true ∧
    ({ State.reset with pc := 0xFFE } : State).Inv ∧ (nextOf (step { State.reset with pc := 0xFFE })).isSome = true := by
  decide
theorem witness_EveryRun :
    performAll defaultFont [.reset [], .load [0x00, 0xE0], .tick] State.reset =
      .next (tick (loadProgram [0x00, 0xE0] (resetMachine defaultFont [] State.reset))) := rfl
/-- Another font than the default, a running timer; and the model's first state. -/
theorem witness_ResetSets :
    (resetMachine (Vector.replicate 80 0x3C) [0xAB] { State.reset with dt := 9 } =
        resetMachine (Vector.replicate 80 0x3C) [0xAB] { State.reset with dt := 9 } ∨
      (resetMachine (Vector.replicate 80 0x3C) [0xAB] { State.reset with dt := 9 } = State.reset ∧
        (Vector.replicate 80 0x3C : Font) = defaultFont)) ∧
    (State.reset = resetMachine defaultFont [0xAB] State.reset ∨ (State.reset = State.reset ∧ defaultFont = defaultFont)) :=
  ⟨Or.inl rfl, Or.inr ⟨rfl, rfl⟩⟩
/-- The last glyph. -/
theorem witness_FontAddress : (15 : Byte).toNat ≤ 15 := by decide
/-- Each action from a state that meets the invariant. -/
theorem witness_EveryAction :
    State.reset.Inv ∧ perform defaultFont .tick State.reset = .next (tick State.reset) ∧
    perform defaultFont (.reset []) State.reset = .next (resetMachine defaultFont [] State.reset) ∧
    perform defaultFont (.load [0x00]) State.reset = .next (loadProgram [0x00] State.reset) ∧
    (nextOf (perform defaultFont (.step ⟨0, 0, 0⟩) State.reset)).isSome = true := by
  refine ⟨by decide, rfl, rfl, rfl, by decide⟩
theorem witness_Load_Launch :
    State.reset.mem.wf = true ∧ (List.replicate 3584 (0 : Byte)).length ≤ 3584 ∧
    3584 < (List.replicate 3585 (0 : Byte)).length ∧
    State.reset.launch defaultFont [] [0x12, 0x00] = State.reset.launch defaultFont [] [0x12, 0x00] := by
  refine ⟨by decide, by rw [List.length_replicate], by rw [List.length_replicate]; decide, rfl⟩
/-- 70_reset_and_hazards.md R178: `12 00` at 0x200, and a schedule of the host. -/
theorem witness_Finished :
    (prog 0x1200).Finished ∧
    ∀ a ∈ [HostAction.tick, .step ⟨0, 0, 0⟩], a = .tick ∨ ∃ inp, a = .step inp := by
  refine ⟨by decide, ?_⟩
  intro a ha
  simp only [List.mem_cons, List.not_mem_nil, or_false] at ha
  rcases ha with rfl | rfl
  · exact Or.inl rfl
  · exact Or.inr ⟨_, rfl⟩

end Sys2Proof.Tests
end

section
/-! SUPPORT. The invariant of every run: one rule per operation, then every instruction, `Step`, every action of the host,
and every run after a `Reset`. -/

namespace Sys2Proof.Machine

/-! ### Bounds of addresses -/

/-- A sum of words is at most the sum of their values; it is less where it wraps. -/
theorem Word.toNat_add_le (w d : Word) : (w + d).toNat ≤ w.toNat + d.toNat := by
  rw [BitVec.toNat_add]
  exact Nat.mod_le _ _

/-- An address immediate lies in the address space. -/
theorem toNat_addrOfNnn_le (nnn : Addr12) : (addrOfNnn nnn).toNat ≤ 0xFFF := by
  rw [addrOfNnn, BitVec.toNat_setWidth_of_le (by decide)]
  exact Nat.le_of_lt_succ nnn.isLt

/-- A widened byte is at most 255. -/
theorem toNat_wordOfByte_le (b : Byte) : (wordOfByte b).toNat ≤ 0xFF := by
  rw [wordOfByte, BitVec.toNat_setWidth_of_le (by decide)]
  exact Nat.le_of_lt_succ b.isLt

/-- An opcode is fetched only where both of its bytes are in memory (20_memory.md R34). -/
theorem State.pc_le_of_fetch_eq_ok {s : State} {op : Word} (h : s.fetch = .ok op) : s.pc.toNat ≤ 0xFFE := by
  by_contra hpc
  rw [State.fetch_eq_error (Nat.lt_of_not_le hpc)] at h
  cases h

/-! ### The invariant and the operations over the state -/

section
variable {s u : State}

/-- The invariant reads memory, PC and the stack slots, and nothing else. -/
theorem State.Inv.of_same_mem_stk (h : s.Inv) (hm : u.mem = s.mem) (hs : u.stk = s.stk) (hpc : u.pc.toNat ≤ 0x10FE) :
    u.Inv := by
  obtain ⟨hwf, -, hslots⟩ := h
  exact ⟨hm ▸ hwf, hpc, hs ▸ hslots⟩

/-- A fault changes none of the three (60_exceptions.md R141). -/
theorem State.Inv.raise (h : s.Inv) (r : FaultReport) : (s.raise r).Inv := h

/-- Neither does the end of a Step. -/
theorem State.Inv.endStep (h : s.Inv) : s.endStep.Inv := h

/-- Every slot of the return stack, and what a slot outside it reads as, is at most 0x1000. -/
theorem State.Inv.slot_le (h : s.Inv) (k : Nat) : (s.slot k).toNat ≤ 0x1000 := by
  obtain ⟨-, -, hslots⟩ := h
  by_cases hk : k < 16
  · simpa [State.slot, hk] using hslots ⟨k, hk⟩
  · simp [State.slot, hk]

/-- From where an opcode was fetched, going on to the next one keeps the invariant, whatever else was written. -/
theorem State.Inv.advance (h : s.Inv) (hp : s.pc.toNat ≤ 0xFFE) (hm : u.mem = s.mem) (hs : u.stk = s.stk)
    (hpc : u.pc = s.pc) : u.advance.Inv := by
  refine h.of_same_mem_stk hm hs ((Word.toNat_add_le u.pc 2).trans ?_)
  rw [hpc]
  exact (Nat.add_le_add_right hp 2).trans (by decide)

/-- So does going on or skipping one. -/
theorem State.Inv.skipIf (h : s.Inv) (hp : s.pc.toNat ≤ 0xFFE) (c : Bool) : (s.skipIf c).Inv := by
  cases c with
  | false => exact h.advance hp rfl rfl rfl
  | true =>
    exact h.of_same_mem_stk rfl rfl
      ((Word.toNat_add_le s.pc 4).trans ((Nat.add_le_add_right hp 4).trans (by decide)))

/-- A jump to a bounded target keeps the invariant. -/
theorem State.Inv.jump (h : s.Inv) {w : Word} (hw : w.toNat ≤ 0x10FE) : (s.jump w).Inv :=
  h.of_same_mem_stk rfl rfl hw

/-- Pushing a bounded address keeps the invariant (40_flow.md R73). -/
theorem State.Inv.push (h : s.Inv) {w : Word} (hw : w.toNat ≤ 0x1000) : (s.push w).Inv := by
  obtain ⟨hwf, hpc, hslots⟩ := h
  refine ⟨hwf, hpc, fun k => ?_⟩
  rw [State.push_stk, Vector.getElem_setIfInBounds]
  split
  · exact hw
  · exact hslots k

/-- A store inside the address space keeps the invariant. -/
theorem State.Inv.store (h : s.Inv) {a : Nat} {bytes : List Byte}
    (ha : bytes.length = 0 ∨ a + (bytes.length - 1) ≤ 0xFFF) : (s.store a bytes).Inv := by
  obtain ⟨hwf, hpc, hslots⟩ := h
  exact ⟨Memory.wf_storeBytes hwf ha, hpc, hslots⟩

/-- A run at I that passed its check is stored inside the address space (20_memory.md R36). -/
theorem State.Inv.storeRun (h : s.Inv) {bytes : List Byte} (hf : s.runFault bytes.length = none) :
    (s.storeRun bytes).Inv :=
  h.store (State.runFault_eq_none.1 hf)

end

/-! ### Every instruction and every Step -/

/-- An instruction fetched in a state that meets the invariant answers one that meets it. -/
theorem exec_answers_inv {s : State} (h : s.Inv) (hp : s.pc.toNat ≤ 0xFFE) (i : Instr) :
    ∃ t, exec i s = .next t ∧ t.Inv := by
  cases i with
  | cls | ldImm | addImm | ldReg | orReg | andReg | xorReg | addReg | subReg | shr | subn | shl | ldI | rnd
  | ldVxDt | ldDtVx | ldStVx | addI | ldF | unimpl => exact ⟨_, rfl, h.advance hp rfl rfl rfl⟩
  | seImm | sneImm | seReg | sneReg => exact ⟨_, rfl, h.skipIf hp _⟩
  | jp nnn => exact ⟨_, rfl, h.jump ((toNat_addrOfNnn_le nnn).trans (by decide))⟩
  | jpV0 nnn =>
    have hsum := Nat.add_le_add (toNat_addrOfNnn_le nnn) (toNat_wordOfByte_le (s.reg 0))
    exact ⟨_, rfl, h.jump ((Word.toNat_add_le _ _).trans hsum)⟩
  | ret =>
    refine ⟨_, rfl, ?_⟩
    split
    · exact h.raise _
    · exact h.of_same_mem_stk rfl rfl ((h.slot_le _).trans (by decide))
  | call nnn =>
    refine ⟨_, rfl, ?_⟩
    split
    · exact h.raise _
    · have hpush : (s.push (s.pc + 2)).Inv :=
        h.push ((Word.toNat_add_le s.pc 2).trans (Nat.add_le_add_right hp 2))
      exact hpush.jump ((toNat_addrOfNnn_le nnn).trans (by decide))
  | skp | sknp =>
    refine ⟨_, rfl, ?_⟩
    split
    · exact h.raise _
    · exact h.skipIf hp _
  | drw | ldRegs =>
    refine ⟨_, rfl, ?_⟩
    split
    · exact h.raise _
    · exact h.advance hp rfl rfl rfl
  | ldVxK =>
    refine ⟨_, rfl, ?_⟩
    split
    · exact h
    · exact h.advance hp rfl rfl rfl
  | ldB x =>
    refine ⟨_, rfl, ?_⟩
    split
    · exact h.raise _
    · next hf => exact (h.storeRun (bytes := bcdDigits (s.reg x)) hf).advance hp rfl rfl rfl
  | stRegs x =>
    refine ⟨_, rfl, ?_⟩
    split
    · exact h.raise _
    · next hf =>
      have hrun : (s.storeRun (s.regsUpTo x)).Inv := h.storeRun (by rwa [State.length_regsUpTo])
      exact hrun.advance hp rfl rfl rfl

/-- A Step keeps the invariant: PC is within memory where an instruction runs, and stays where a fault is raised. -/
theorem State.Inv.step {s t : State} (h : s.Inv) (ht : step s = .next t) : t.Inv := by
  obtain ⟨-, ⟨op, u, hfetch, hexec, rfl⟩ | ⟨r, -, rfl⟩⟩ := step_eq_next.1 ht
  · obtain ⟨u', hu', hinv⟩ := exec_answers_inv h (State.pc_le_of_fetch_eq_ok hfetch) (decode op)
    obtain rfl : u' = u := Host.Outcome.next.inj (hu'.symm.trans hexec)
    exact hinv.endStep
  · exact (h.raise r).endStep

/-! ### Every action of the host, and every run -/

/-- A Reset reaches the invariant from any state (10_state.md R24). -/
theorem resetMachine_inv (font : Font) (fill : List Byte) (s : State) : (resetMachine font fill s).Inv :=
  ⟨wf_resetMemory font fill, (by decide : (0x200 : Word).toNat ≤ 0x10FE), fun k => by simp [resetMachine, State.reset]⟩

/-- A Load keeps the invariant: a program is stored only where it fits (70_reset_and_hazards.md R173). -/
theorem State.Inv.loadProgram {s : State} (h : s.Inv) (bytes : List Byte) : (loadProgram bytes s).Inv := by
  unfold Machine.loadProgram
  split
  · exact h
  · next hfits => exact h.store (by rw [maxProgram] at hfits; omega)

/-- A Tick keeps the invariant: it writes the timers alone. -/
theorem State.Inv.tick {s : State} (h : s.Inv) : (tick s).Inv := by
  unfold Machine.tick
  split <;> exact h

/-- Every action of the host keeps the invariant. -/
theorem State.Inv.perform {font : Font} {a : HostAction} {s t : State} (h : s.Inv) (ht : perform font a s = .next t) :
    t.Inv := by
  cases a with
  | reset fill => exact Host.Outcome.next.inj ht ▸ resetMachine_inv font fill s
  | load bytes => exact Host.Outcome.next.inj ht ▸ h.loadProgram bytes
  | step inp => exact State.Inv.step (s := { s with oracle := inp :: s.oracle }) h ht
  | tick => exact Host.Outcome.next.inj ht ▸ h.tick

/-- Every sequence of actions keeps the invariant. -/
theorem State.Inv.performAll {font : Font} {actions : List HostAction} {s t : State} (h : s.Inv)
    (ht : performAll font actions s = .next t) : t.Inv := by
  induction actions generalizing s with
  | nil => exact Host.Outcome.next.inj ht ▸ h
  | cons a actions ih =>
    obtain ⟨u, hu, hrest⟩ := performAll_cons_eq_next.1 ht
    exact ih (h.perform hu) hrest

/-- Settles O46, from the Reset's rule and the rule over the four actions. -/
theorem everyActionKeepsTheInvariant : Obligations.EveryActionKeepsTheInvariant :=
  ⟨resetMachine_inv, fun _ _ _ _ h ht => h.perform ht⟩

/-- Settles O47, by induction on the actions after the Reset, which reaches the invariant whatever went before. -/
theorem everyRunAfterResetKeepsTheInvariant : Obligations.EveryRunAfterResetKeepsTheInvariant := by
  intro font fill actions s t ht
  obtain ⟨u, hu, hrest⟩ := performAll_cons_eq_next.1 ht
  obtain rfl : resetMachine font fill s = u := Host.Outcome.next.inj hu
  exact (resetMachine_inv font fill s).performAll hrest

end Sys2Proof.Machine
end

section
/-! SUPPORT. What each operation over the state may write, the frame of every instruction, FAULT under the host's
actions, and the glyphs that Reset installs. -/

namespace Sys2Proof.Machine

/-! ### Frames and the operations over the state

Each rule takes a frame from `s` to `u` on to the state after one more operation on `u`; the side conditions say that the
frame lists what the operation writes. -/

section
variable {regs : List RegIdx} {parts : List Part} {s u : State}

/-- PC is in no frame. -/
theorem Frame.jump (h : Frame regs parts s u) (w : Word) : Frame regs parts s (u.jump w) :=
  ⟨h.1, fun p hp => by have hsame := h.2 p hp; cases p <;> exact hsame⟩

/-- A write of a register (10_state.md R10). -/
theorem Frame.setReg (h : Frame regs parts s u) {x : RegIdx} (b : Byte) (hx : x ∈ regs) :
    Frame regs parts s (u.setReg x b) := by
  refine ⟨fun r hr => ?_, fun p hp => by have hsame := h.2 p hp; cases p <;> simpa [Part.same] using hsame⟩
  have hne : r ≠ x := fun hrx => hr (hrx ▸ hx)
  rw [State.setReg_reg, if_neg hne]
  exact h.1 r hr

/-- A load of V[0..x] from memory (46_f_family.md R129). -/
theorem Frame.loadRegsUpTo (h : Frame regs parts s u) {x : RegIdx} (hx : ∀ r : RegIdx, r.toNat ≤ x.toNat → r ∈ regs) :
    Frame regs parts s (u.loadRegsUpTo x) := by
  refine ⟨fun r hr => ?_, fun p hp => by have hsame := h.2 p hp; cases p <;> simpa [Part.same] using hsame⟩
  rw [State.loadRegsUpTo_reg, if_neg fun hle => hr (hx r hle)]
  exact h.1 r hr

/-- A write of I (10_state.md R16). -/
theorem Frame.setIndex (h : Frame regs parts s u) (w : Word) (hi : .index ∈ parts) :
    Frame regs parts s (u.setIndex w) :=
  ⟨h.1, fun p hp => by cases p with
    | index => exact absurd hi hp
    | _ => exact h.2 _ hp⟩

/-- A write of DT (10_state.md R18). -/
theorem Frame.setDelay (h : Frame regs parts s u) (b : Byte) (hd : .delay ∈ parts) :
    Frame regs parts s (u.setDelay b) :=
  ⟨h.1, fun p hp => by cases p with
    | delay => exact absurd hd hp
    | _ => exact h.2 _ hp⟩

/-- A write of ST (10_state.md R19). -/
theorem Frame.setSound (h : Frame regs parts s u) (b : Byte) (hs : .sound ∈ parts) :
    Frame regs parts s (u.setSound b) :=
  ⟨h.1, fun p hp => by cases p with
    | sound => exact absurd hs hp
    | _ => exact h.2 _ hp⟩

/-- A push (10_state.md R17). -/
theorem Frame.push (h : Frame regs parts s u) (w : Word) (hs : .stack ∈ parts) : Frame regs parts s (u.push w) :=
  ⟨h.1, fun p hp => by cases p with
    | stack => exact absurd hs hp
    | _ => exact h.2 _ hp⟩

/-- A pop (10_state.md R17). -/
theorem Frame.dropTop (h : Frame regs parts s u) (hs : .stack ∈ parts) : Frame regs parts s u.dropTop :=
  ⟨h.1, fun p hp => by cases p with
    | stack => exact absurd hs hp
    | _ => exact h.2 _ hp⟩

/-- A store of a run at I (20_memory.md R36). -/
theorem Frame.storeRun (h : Frame regs parts s u) (bytes : List Byte) (hm : .memory ∈ parts) :
    Frame regs parts s (u.storeRun bytes) :=
  ⟨h.1, fun p hp => by cases p with
    | memory => exact absurd hm hp
    | _ => exact h.2 _ hp⟩

/-- A value or signal that leaves the core (60_exceptions.md R163). -/
theorem Frame.emit (h : Frame regs parts s u) (e : Event) (he : .events ∈ parts) : Frame regs parts s (u.emit e) :=
  ⟨h.1, fun p hp => by cases p with
    | events => exact absurd he hp
    | _ => exact h.2 _ hp⟩

/-- A fault writes the FAULT cell and reports (60_exceptions.md R141). -/
theorem Frame.raise (h : Frame regs parts s u) (r : FaultReport) (hf : .faultCell ∈ parts) (he : .events ∈ parts) :
    Frame regs parts s (u.raise r) :=
  ⟨h.1, fun p hp => by cases p with
    | faultCell => exact absurd hf hp
    | _ => exact (h.emit (.faultReport r) he).2 _ hp⟩

/-- The command to clear leaves the core, and the Display's grid changes (60_exceptions.md R156). -/
theorem Frame.clearDisplay (h : Frame regs parts s u) (hd : .display ∈ parts) (he : .events ∈ parts) :
    Frame regs parts s u.clearDisplay :=
  ⟨h.1, fun p hp => by cases p with
    | display => exact absurd hd hp
    | _ => exact (h.emit .displayClear he).2 _ hp⟩

/-- So does the command to draw (60_exceptions.md R157). -/
theorem Frame.drawDisplay (h : Frame regs parts s u) (x y : Byte) (rows : List Byte) (hd : .display ∈ parts)
    (he : .events ∈ parts) : Frame regs parts s (u.drawDisplay x y rows) :=
  ⟨h.1, fun p hp => by cases p with
    | display => exact absurd hd hp
    | _ => exact (h.emit (.displayDraw x y rows) he).2 _ hp⟩

end

/-! ### The frame of every instruction -/

/-- Every instruction answers a state in which only what it is listed to write has changed (10_state.md section 12). -/
theorem exec_answers_frame (i : Instr) (s : State) :
    ∃ t, exec i s = .next t ∧ Frame (regsWritten i) (partsWritten i) s t := by
  have hs := Frame.refl (regsWritten i) (partsWritten i) s
  cases i with
  | jp | jpV0 | seImm | sneImm | seReg | sneReg => exact ⟨_, rfl, hs.jump _⟩
  | ldImm | addImm | ldReg | orReg | andReg | xorReg | rnd | ldVxDt =>
    exact ⟨_, rfl, (hs.setReg _ (by simp [regsWritten])).jump _⟩
  | addReg | subReg | subn | shr | shl =>
    exact ⟨_, rfl, ((hs.setReg _ (by simp [regsWritten])).setReg _ (by simp [regsWritten])).jump _⟩
  | ldI | addI | ldF => exact ⟨_, rfl, (hs.setIndex _ (by simp [partsWritten])).jump _⟩
  | ldDtVx => exact ⟨_, rfl, (hs.setDelay _ (by simp [partsWritten])).jump _⟩
  | ldStVx => exact ⟨_, rfl, (hs.setSound _ (by simp [partsWritten])).jump _⟩
  | unimpl => exact ⟨_, rfl, (hs.emit _ (by simp [partsWritten])).jump _⟩
  | cls => exact ⟨_, rfl, (hs.clearDisplay (by simp [partsWritten]) (by simp [partsWritten])).jump _⟩
  | ldVxK =>
    refine ⟨_, rfl, ?_⟩
    split
    · exact hs
    · exact (hs.setReg _ (by simp [regsWritten])).jump _
  | ret =>
    refine ⟨_, rfl, ?_⟩
    split
    · exact hs.raise _ (by simp [partsWritten]) (by simp [partsWritten])
    · exact (hs.dropTop (by simp [partsWritten])).jump _
  | call =>
    refine ⟨_, rfl, ?_⟩
    split
    · exact hs.raise _ (by simp [partsWritten]) (by simp [partsWritten])
    · exact (hs.push _ (by simp [partsWritten])).jump _
  | skp | sknp =>
    refine ⟨_, rfl, ?_⟩
    split
    · exact hs.raise _ (by simp [partsWritten]) (by simp [partsWritten])
    · exact hs.jump _
  | drw =>
    refine ⟨_, rfl, ?_⟩
    split
    · exact hs.raise _ (by simp [partsWritten]) (by simp [partsWritten])
    · exact ((hs.drawDisplay _ _ _ (by simp [partsWritten]) (by simp [partsWritten])).setReg _
        (by simp [regsWritten])).jump _
  | ldB | stRegs =>
    refine ⟨_, rfl, ?_⟩
    split
    · exact hs.raise _ (by simp [partsWritten]) (by simp [partsWritten])
    · exact (hs.storeRun _ (by simp [partsWritten])).jump _
  | ldRegs =>
    refine ⟨_, rfl, ?_⟩
    split
    · exact hs.raise _ (by simp [partsWritten]) (by simp [partsWritten])
    · exact (hs.loadRegsUpTo fun _ hr => mem_regsWritten_ldRegs.2 hr).jump _

/-! ### FAULT under the host's actions -/

/-- While FAULT is set, `step` stops with its cause (10_state.md R20). -/
theorem step_of_fault {s : State} (h : s.fault ≠ .none) : step s = .fault (.stopped s.fault) := by
  unfold step
  cases hf : s.fault with
  | none => exact absurd hf h
  | _ => rfl

/-- A Tick does not write FAULT (60_exceptions.md R154). -/
@[simp] theorem tick_fault (s : State) : (tick s).fault = s.fault := by
  unfold tick
  split <;> rfl

/-- Neither does a Load, whether or not the program fits (70_reset_and_hazards.md R173). -/
@[simp] theorem loadProgram_fault (bytes : List Byte) (s : State) : (loadProgram bytes s).fault = s.fault := by
  unfold loadProgram
  split <;> rfl

/-! ### Glyphs -/

/-- Five times a byte does not wrap (46_f_family.md R126). -/
theorem toNat_glyphAddr (g : Byte) : (glyphAddr g).toNat = 5 * g.toNat := by
  have hg := g.isLt
  rw [glyphAddr, wordOfByte]
  bv_omega

/-- After Reset the k-th byte of glyph g is FONT[5g + k] (10_state.md R25). -/
theorem read_resetMemory_glyph (font : Font) (fill : List Byte) {g : Byte} {k : Nat} (hg : g.toNat ≤ 15) (hk : k < 5) :
    font[5 * g.toNat + k]? = some ((resetMemory font fill).read ((glyphAddr g).toNat + k)) := by
  have hfont : 5 * g.toNat + k < 80 := by omega
  rw [toNat_glyphAddr, read_resetMemory_font font fill hfont, Vector.getElem?_eq_getElem hfont]

/-! ### The statements -/

/-- Settles O44, by the rule for `step` over the invariant of every instruction. -/
theorem stepKeepsTheInvariant : Obligations.StepKeepsTheInvariant := fun _ _ h ht => h.step ht

/-- Settles O45: the model's first state is a Reset, and a Reset reaches the invariant. -/
theorem resetMeetsTheInvariant : Obligations.ResetMeetsTheInvariant := by
  have hinv := resetMachine_inv defaultFont [] State.reset
  rwa [resetMachine_default] at hinv

/-- Settles O39, by the frame of each instruction. -/
theorem instructionsKeepTheirFrame : Obligations.InstructionsKeepTheirFrame := by
  intro i s t ht
  obtain ⟨u, hu, hframe⟩ := exec_answers_frame i s
  obtain rfl : u = t := Host.Outcome.next.inj (hu.symm.trans ht)
  exact hframe

/-- Settles O48, action by action. -/
theorem onlyResetClearsAFault : Obligations.OnlyResetClearsAFault := by
  intro font s hs
  refine ⟨fun inp => ?_, ⟨_, rfl, tick_fault s⟩, fun bytes => ⟨_, rfl, loadProgram_fault bytes s⟩,
    fun fill => ⟨_, rfl, rfl⟩⟩
  exact step_of_fault (s := { s with oracle := inp :: s.oracle }) hs

/-- Settles O50: LD F, Vx sets I to the glyph's address and leaves the memory that Reset left. -/
theorem fontAddressPointsToTheGlyph : Obligations.FontAddressPointsToTheGlyph := by
  intro font fill s x g hg
  refine ⟨_, rfl, fun k hk => ?_⟩
  have hreg : ((resetMachine font fill s).setReg x g).reg x = g := by simp
  rw [State.advance_i, State.setIndex_i, hreg]
  exact read_resetMemory_glyph font fill hg hk

end Sys2Proof.Machine
end

section
/-! SUPPORT. Memory: the fetch fault, a dump of registers and what it leaves in memory, which operations write memory, and
what Load leaves in it. -/

namespace Sys2Proof.Machine

/-! ### The fetch fault (20_memory.md R34) -/

/-- The end of a Step uses up its boundary input and changes nothing else (60_exceptions.md R161). -/
theorem Frame.endStep {regs : List RegIdx} {parts : List Part} {s u : State} (h : Frame regs parts s u)
    (hi : .inputs ∈ parts) : Frame regs parts s u.endStep :=
  ⟨h.1, fun p hp => by cases p with
    | inputs => exact absurd hi hp
    | _ => exact h.2 _ hp⟩

/-- An enabled Step whose opcode cannot be fetched raises the fetch's fault. -/
theorem step_of_fetch_error {s : State} {r : FaultReport} (hs : s.fault = .none) (hr : s.fetch = .error r) :
    step s = .next (s.raise r).endStep :=
  step_eq_next.2 ⟨hs, .inr ⟨r, hr, rfl⟩⟩

/-- Settles O7: the fetch fails, and a raised fault writes the FAULT cell and its report alone. -/
theorem fetchBeyondMemoryFaults : Obligations.FetchBeyondMemoryFaults := by
  intro s hs hpc
  have hlowest : max s.pc.toNat 0x1000 = if 0xFFF < s.pc.toNat then s.pc.toNat else 0x1000 := by
    split <;> omega
  refine ⟨_, step_of_fetch_error hs (State.fetch_eq_error hpc), rfl, ?_, rfl, ?_⟩
  · rw [← hlowest]
    rfl
  · exact ((Frame.refl _ _ s).raise _ (by simp) (by simp)).endStep (by simp)

/-! ### A dump of registers (46_f_family.md R128) -/

/-- A dump to a valid run at I stores V[0..x] there and goes on. -/
theorem exec_stRegs_of_valid {s : State} {x : RegIdx} (h : s.i.toNat + x.toNat ≤ 0xFFF) :
    exec (.stRegs x) s = .next (s.storeRun (s.regsUpTo x)).advance := by
  have hrun : s.runFault (regCount x) = none := State.runFault_eq_none.2 (.inr h)
  simp only [exec, execStRegs, hrun]

/-- After a dump of V[0..x] to a valid run at I, the byte at I + r is V[r]. -/
theorem State.read_storeRun_regsUpTo {s : State} {x r : RegIdx} (hm : s.mem.wf = true)
    (h : s.i.toNat + x.toNat ≤ 0xFFF) (hr : r.toNat ≤ x.toNat) :
    (s.storeRun (s.regsUpTo x)).mem.read (s.i.toNat + r.toNat) = s.reg r := by
  rw [State.storeRun_mem, Memory.read_storeBytes_inside hm (by simpa using h) (by simpa using Nat.lt_succ_of_le hr)]
  simp

/-- Settles O37: a fetch at I reads the first two bytes of the dump, which are V0 and V1. -/
theorem storedBytesAreFetchedAsAnOpcode : Obligations.StoredBytesAreFetchedAsAnOpcode := by
  intro s x hm hx hrun
  refine ⟨_, exec_stRegs_of_valid hrun, ?_⟩
  have hV0 := State.read_storeRun_regsUpTo (r := 0) hm hrun (Nat.zero_le _)
  have hV1 := State.read_storeRun_regsUpTo (r := 1) hm hrun hx
  rw [← hV0, ← hV1]
  exact State.fetch_eq_ok (show s.i.toNat ≤ 0xFFE by omega)

/-! ### Which operations write memory (20_memory.md R43) -/

/-- Every instruction but LD B, Vx and LD [I], Vx leaves memory as it was. -/
theorem exec_mem {i : Instr} {s t : State} (hB : ∀ x, i ≠ .ldB x) (hStore : ∀ x, i ≠ .stRegs x)
    (h : exec i s = .next t) : t.mem = s.mem := by
  cases i with
  | ldB x => exact absurd rfl (hB x)
  | stRegs x => exact absurd rfl (hStore x)
  | ret | call | drw | skp | sknp | ldVxK | ldRegs =>
    obtain rfl := Host.Outcome.next.inj h
    split <;> rfl
  | _ => exact Host.Outcome.next.inj h ▸ rfl

/-- A Tick leaves memory as it was (60_exceptions.md R150). -/
@[simp] theorem tick_mem (s : State) : (tick s).mem = s.mem := by
  unfold tick
  split <;> rfl

/-! ### Load (70_reset_and_hazards.md R173) -/

/-- A program that fits is stored at 0x200. -/
theorem loadProgram_of_fits {bytes : List Byte} (h : bytes.length ≤ 3584) (s : State) :
    loadProgram bytes s = s.store 0x200 bytes :=
  if_neg (Nat.not_lt.2 h)

/-- A longer one is signalled, and nothing of it is stored (decision D22). -/
theorem loadProgram_of_too_large {bytes : List Byte} (h : 3584 < bytes.length) (s : State) :
    loadProgram bytes s = s.emit .programTooLarge :=
  if_pos h

/-- A program that fits is in memory from 0x200 on after its Load. -/
theorem read_loadProgram_inside {bytes : List Byte} {s : State} {k : Nat} (hm : s.mem.wf = true)
    (h : bytes.length ≤ 3584) (hk : k < bytes.length) : (loadProgram bytes s).mem.read (0x200 + k) = bytes[k] := by
  rw [loadProgram_of_fits h, State.store_mem]
  exact Memory.read_storeBytes_inside hm (by omega) hk

/-- No Load changes an address below 0x200 or above its program. -/
theorem read_loadProgram_outside {bytes : List Byte} {s : State} {a : Nat} (ha : a < 0x200 ∨ 0x200 + bytes.length ≤ a) :
    (loadProgram bytes s).mem.read a = s.mem.read a := by
  unfold loadProgram
  split
  · rfl
  · exact Memory.read_storeBytes_outside s.mem bytes ha

/-- Settles O41, from the rules of the reset memory, of Load, of the instructions and of Tick. -/
theorem memoryIsWrittenOnlyByFour : Obligations.MemoryIsWrittenOnlyByFour := by
  refine ⟨fun font fill _ => ⟨fun _ h => read_resetMemory_font font fill h,
    fun _ h ha => read_resetMemory_fill font fill h ha⟩, fun bytes s hm => ⟨fun hfits => ⟨fun k hk => ?_, ?_⟩, ?_⟩,
    fun _ _ _ => exec_mem, tick_mem⟩
  · rw [read_loadProgram_inside hm hfits hk, List.getElem?_eq_getElem hk]
  · exact fun _ => read_loadProgram_outside
  · intro hlong
    rw [loadProgram_of_too_large hlong, State.emit_mem]

end Sys2Proof.Machine
end

section
/-! SUPPORT. The decoder: its families, the words it leaves unimplemented, the opcode map as a list of tests of fields, and
that decoding inverts encoding. -/

namespace Sys2Proof

/-! ### Families (30_encoding.md R54 to R58) -/

/-- Four families have a secondary key, the other twelve have none. -/
theorem Nibble.family_cases (v : Nibble) :
    v = 0x0 ∨ v = 0x8 ∨ v = 0xE ∨ v = 0xF ∨
      v ∈ [0x1#4, 0x2#4, 0x3#4, 0x4#4, 0x5#4, 0x6#4, 0x7#4, 0x9#4, 0xA#4, 0xB#4, 0xC#4, 0xD#4] := by
  revert v
  decide

section
variable {op : Word}

theorem decode_family0 (h : op.hi = 0x0) : decode op = decode0 op := by simp [decode, h]

theorem decode_family8 (h : op.hi = 0x8) : decode op = decode8 op := by simp [decode, h]

theorem decode_familyE (h : op.hi = 0xE) : decode op = decodeE op := by simp [decode, h]

theorem decode_familyF (h : op.hi = 0xF) : decode op = decodeF op := by simp [decode, h]

end

/-! ### Unimplemented words (30_encoding.md R61) -/

/-- The list of R61, in terms of the fields of the word. -/
theorem Word.unimplemented_iff (op : Word) :
    op.unimplemented = true ↔
      (op.hi = 0x0 ∧ op.n ∉ [0x0#4, 0xE#4]) ∨
      (op.hi = 0x8 ∧ op.n ∈ [0x8#4, 0x9#4, 0xA#4, 0xB#4, 0xC#4, 0xD#4, 0xF#4]) ∨
      (op.hi = 0xE ∧ op.nn ∉ [0x9E#8, 0xA1#8]) ∨
      (op.hi = 0xF ∧ op.nn ∉ [0x07#8, 0x0A#8, 0x15#8, 0x18#8, 0x1E#8, 0x29#8, 0x33#8, 0x55#8, 0x65#8]) := by
  simp [Word.unimplemented, Word.hi, Word.n, Word.nn, or_assoc]

/-- R56 and R61 divide the low nibbles of family 8 between them. -/
theorem Nibble.unimplemented8_iff (v : Nibble) :
    v ∈ [0x8#4, 0x9#4, 0xA#4, 0xB#4, 0xC#4, 0xD#4, 0xF#4] ↔
      v ∉ [0x0#4, 0x1#4, 0x2#4, 0x3#4, 0x4#4, 0x5#4, 0x6#4, 0x7#4, 0xE#4] := by
  revert v
  decide

/-- A word decodes to the unimplemented instruction exactly when R61 lists it, and then to that with the word itself. -/
theorem decode_eq_unimpl_iff {op w : Word} : decode op = .unimpl w ↔ op.unimplemented = true ∧ op = w := by
  rw [Word.unimplemented_iff, Nibble.unimplemented8_iff]
  rcases Nibble.family_cases op.hi with h | h | h | h | h
  · simp only [decode_family0 h, decode0, BitVec.ofNat_eq_ofNat]
    split_ifs <;> simp [*]
  · simp only [decode_family8 h, decode8, BitVec.ofNat_eq_ofNat]
    split_ifs <;> simp [*]
  · simp only [decode_familyE h, decodeE, BitVec.ofNat_eq_ofNat]
    split_ifs <;> simp [*]
  · simp only [decode_familyF h, decodeF, BitVec.ofNat_eq_ofNat]
    split_ifs <;> simp [*]
  · simp only [List.mem_cons, List.not_mem_nil, or_false] at h
    rcases h with h | h | h | h | h | h | h | h | h | h | h | h <;> simp [decode, h]

/-- Decoding gives well-formed instructions: only an unimplemented word could fail, and R61 lists it. -/
theorem decode_wf (op : Word) : (decode op).wf = true := by
  cases hd : decode op with
  | unimpl w =>
    obtain ⟨hop, rfl⟩ := decode_eq_unimpl_iff.1 hd
    exact hop
  | _ => rfl

/-- Settles O3, by what the decoder answers on an unimplemented word. -/
theorem decodedInstructionsAreWellFormed : Obligations.DecodedInstructionsAreWellFormed :=
  fun op => ⟨decode_wf op, by simp [decode_eq_unimpl_iff]⟩

/-! ### Decoding inverts encoding (30_encoding.md R60, R64) -/

/-- Each format's fields are read back as they were written. -/
theorem decode_encode {i : Instr} (h : i.wf = true) : decode (encode i) = i := by
  cases i with
  | cls | ret => decide
  | jp | call | ldI | jpV0 => simp [encode, decode]
  | seImm | sneImm | ldImm | addImm | rnd => simp [encode, decode]
  | seReg | sneReg | drw => simp [encode, decode]
  | ldReg | orReg | andReg | xorReg | addReg | subReg | subn | shr | shl => simp [encode, decode, decode8]
  | skp | sknp => simp [encode, decode, decodeE]
  | ldVxDt | ldVxK | ldDtVx | ldStVx | addI | ldF | ldB | stRegs | ldRegs => simp [encode, decode, decodeF]
  | unimpl op => exact decode_eq_unimpl_iff.2 ⟨h, rfl⟩

/-- The bytes of a word, at the head of a string, are decoded as the word. -/
theorem decodeBytes_bytesOfWord (op : Word) (rest : List Byte) :
    decodeBytes (bytesOfWord op ++ rest) = .ok (decode op, rest) := by
  simp [bytesOfWord, decodeBytes]

/-- Settles O2, from the decoder on the canonical word and on its two bytes. -/
theorem decodeOfEncodeIsTheInstruction : Obligations.DecodeOfEncodeIsTheInstruction := by
  intro i hi
  refine ⟨decode_encode hi, fun rest => ?_⟩
  rw [encodeBytes, decodeBytes_bytesOfWord, decode_encode hi]

/-! ### The rows of the opcode map as tests of fields (30_encoding.md R60) -/

namespace OpcodeRow

/-- A row that tests the family alone. -/
def byHi (k : Nat) (v : Nibble) : OpcodeRow := ⟨k, 0xF000, v ++ 0#12⟩

/-- A row that tests the family and the low nibble. -/
def byHiN (k : Nat) (v n : Nibble) : OpcodeRow := ⟨k, 0xF00F, v ++ 0#4 ++ 0#4 ++ n⟩

/-- A row that tests the family and the low byte. -/
def byHiNn (k : Nat) (v : Nibble) (nn : Byte) : OpcodeRow := ⟨k, 0xF0FF, v ++ 0#4 ++ nn⟩

@[simp] theorem number_byHi (k : Nat) (v : Nibble) : (byHi k v).number = k := rfl

@[simp] theorem number_byHiN (k : Nat) (v n : Nibble) : (byHiN k v n).number = k := rfl

@[simp] theorem number_byHiNn (k : Nat) (v : Nibble) (nn : Byte) : (byHiNn k v nn).number = k := rfl

@[simp] theorem selects_byHi (k : Nat) (v : Nibble) (op : Word) : (byHi k v).selects op = decide (op.hi = v) := by
  rw [Bool.eq_iff_iff, decide_eq_true_iff, ← Word.mask_F000]
  exact beq_iff_eq

@[simp] theorem selects_byHiN (k : Nat) (v n : Nibble) (op : Word) :
    (byHiN k v n).selects op = decide (op.hi = v ∧ op.n = n) := by
  rw [Bool.eq_iff_iff, decide_eq_true_iff, ← Word.mask_F00F]
  exact beq_iff_eq

@[simp] theorem selects_byHiNn (k : Nat) (v : Nibble) (nn : Byte) (op : Word) :
    (byHiNn k v nn).selects op = decide (op.hi = v ∧ op.nn = nn) := by
  rw [Bool.eq_iff_iff, decide_eq_true_iff, ← Word.mask_F0FF]
  exact beq_iff_eq

end OpcodeRow

section
open OpcodeRow

/-- The masks and matches of R60 spell these tests. -/
theorem opcodeMap_eq_byFields : opcodeMap =
    [byHiN 1 0x0 0x0, byHiN 2 0x0 0xE, byHi 3 0x1, byHi 4 0x2, byHi 5 0x3, byHi 6 0x4, byHi 7 0x5, byHi 8 0x6,
     byHi 9 0x7, byHiN 10 0x8 0x0, byHiN 11 0x8 0x1, byHiN 12 0x8 0x2, byHiN 13 0x8 0x3, byHiN 14 0x8 0x4,
     byHiN 15 0x8 0x5, byHiN 16 0x8 0x6, byHiN 17 0x8 0x7, byHiN 18 0x8 0xE, byHi 19 0x9, byHi 20 0xA, byHi 21 0xB,
     byHi 22 0xC, byHi 23 0xD, byHiNn 24 0xE 0x9E, byHiNn 25 0xE 0xA1, byHiNn 26 0xF 0x07, byHiNn 27 0xF 0x0A,
     byHiNn 28 0xF 0x15, byHiNn 29 0xF 0x18, byHiNn 30 0xF 0x1E, byHiNn 31 0xF 0x29, byHiNn 32 0xF 0x33,
     byHiNn 33 0xF 0x55, byHiNn 34 0xF 0x65] := by
  decide

end

/-! ### The decoder follows the opcode map -/

/-- The decoder's branches stand in the order of the map: a word decodes to the instruction of the first row that selects
it, and to one without a row where none does. -/
theorem rowNumber_decode (op : Word) :
    (decode op).rowNumber = (opcodeMap.find? (·.selects op)).map OpcodeRow.number := by
  simp only [opcodeMap_eq_byFields, List.find?_cons, OpcodeRow.selects_byHi, OpcodeRow.selects_byHiN,
    OpcodeRow.selects_byHiNn]
  rcases Nibble.family_cases op.hi with h | h | h | h | h
  · simp only [decode_family0 h, decode0, BitVec.ofNat_eq_ofNat]
    split_ifs <;> simp [*, Instr.rowNumber]
  · simp only [decode_family8 h, decode8, BitVec.ofNat_eq_ofNat]
    split_ifs <;> simp [*, Instr.rowNumber]
  · simp only [decode_familyE h, decodeE, BitVec.ofNat_eq_ofNat]
    split_ifs <;> simp [*, Instr.rowNumber]
  · simp only [decode_familyF h, decodeF, BitVec.ofNat_eq_ofNat]
    split_ifs <;> simp [*, Instr.rowNumber]
  · simp only [List.mem_cons, List.not_mem_nil, or_false] at h
    rcases h with h | h | h | h | h | h | h | h | h | h | h | h <;> simp [decode, h, Instr.rowNumber]

/-- Two rows whose matches agree under both masks are one row. -/
theorem opcodeMap_eq_of_overlap :
    ∀ r ∈ opcodeMap, ∀ q ∈ opcodeMap, r.value &&& q.mask = q.value &&& r.mask → r = q := by
  decide

/-- A row is known by its number. -/
theorem opcodeMap_eq_of_number : ∀ r ∈ opcodeMap, ∀ q ∈ opcodeMap, r.number = q.number → r = q := by
  decide

/-- No word is selected by two rows: under both masks it would agree with both matches. -/
theorem opcodeMap_disjoint {op : Word} {r q : OpcodeRow} (hr : r ∈ opcodeMap) (hq : q ∈ opcodeMap)
    (h : r.selects op = true) (g : q.selects op = true) : r = q := by
  have hmatch : op &&& r.mask = r.value := beq_iff_eq.1 h
  have gmatch : op &&& q.mask = q.value := beq_iff_eq.1 g
  refine opcodeMap_eq_of_overlap r hr q hq ?_
  rw [← hmatch, ← gmatch, BitVec.and_assoc, BitVec.and_assoc, BitVec.and_comm r.mask]

/-- The first row that selects a word is the only one. -/
theorem find?_opcodeMap_eq_some {op : Word} {r : OpcodeRow} (hr : r ∈ opcodeMap) :
    opcodeMap.find? (·.selects op) = some r ↔ r.selects op = true := by
  refine ⟨fun hfind => List.find?_some (p := (OpcodeRow.selects · op)) hfind, fun h => ?_⟩
  have hsome : (opcodeMap.find? (·.selects op)).isSome = true := List.find?_isSome.2 ⟨r, hr, h⟩
  obtain ⟨q, hfind⟩ := Option.isSome_iff_exists.1 hsome
  have hq : q.selects op = true := List.find?_some (p := (OpcodeRow.selects · op)) hfind
  rw [hfind, opcodeMap_disjoint hr (List.mem_of_find?_eq_some hfind) h hq]

/-- A row selects exactly the words that decode to its instruction. -/
theorem OpcodeRow.selects_iff {op : Word} {r : OpcodeRow} (hr : r ∈ opcodeMap) :
    r.selects op = true ↔ (decode op).rowNumber = some r.number := by
  rw [← find?_opcodeMap_eq_some hr, rowNumber_decode, Option.map_eq_some_iff]
  refine ⟨fun hfind => ⟨r, hfind, rfl⟩, fun ⟨q, hfind, hnumber⟩ => ?_⟩
  rw [hfind, opcodeMap_eq_of_number q (List.mem_of_find?_eq_some hfind) r hr hnumber]

/-- Only an unimplemented instruction has no row. -/
theorem Instr.rowNumber_eq_none_iff {i : Instr} : i.rowNumber = none ↔ ∃ w, i = .unimpl w := by
  cases i <;> simp [Instr.rowNumber]

/-- Settles O4: the map's rows are disjoint, and the decoder follows them. -/
theorem opcodeMapSelectsTheDecodedRow : Obligations.OpcodeMapSelectsTheDecodedRow := by
  refine ⟨fun op r => OpcodeRow.selects_iff, fun op r hr q hq => opcodeMap_disjoint hr hq, fun op => ?_⟩
  calc (∀ r ∈ opcodeMap, r.selects op = false)
    _ ↔ (decode op).rowNumber = none := by simp [rowNumber_decode]
    _ ↔ ∃ w, decode op = .unimpl w := Instr.rowNumber_eq_none_iff
    _ ↔ decode op = .unimpl op := by simp [decode_eq_unimpl_iff]

/-! ### Ignored fields (30_encoding.md R52, R55, R59) -/

section
variable {op m : Word}

/-- A mask keeps the fields where it is all ones. -/
theorem Word.hi_and_of_allOnes (h : m.hi = BitVec.allOnes 4) : Word.hi (op &&& m) = op.hi := by
  rw [Word.hi_and, h, BitVec.and_allOnes]

theorem Word.x_and_of_allOnes (h : m.x = BitVec.allOnes 4) : Word.x (op &&& m) = op.x := by
  rw [Word.x_and, h, BitVec.and_allOnes]

theorem Word.y_and_of_allOnes (h : m.y = BitVec.allOnes 4) : Word.y (op &&& m) = op.y := by
  rw [Word.y_and, h, BitVec.and_allOnes]

theorem Word.n_and_of_allOnes (h : m.n = BitVec.allOnes 4) : Word.n (op &&& m) = op.n := by
  rw [Word.n_and, h, BitVec.and_allOnes]

end

/-- Settles O5: each mask keeps the fields that the decoder reads in its family. -/
theorem ignoredFieldsChangeNothing : Obligations.IgnoredFieldsChangeNothing := by
  refine ⟨fun op hhi hn => ?_, fun op hhi => ?_, fun op hhi hn => ?_⟩
  · have hhi' : Word.hi (op &&& 0xF00F#16) = op.hi := Word.hi_and_of_allOnes (by decide)
    have hn' : Word.n (op &&& 0xF00F#16) = op.n := Word.n_and_of_allOnes (by decide)
    rcases hn with hn | hn <;> simp [decode, decode0, hhi', hhi, hn', hn]
  · have hhi' : Word.hi (op &&& 0xFFF0#16) = op.hi := Word.hi_and_of_allOnes (by decide)
    have hx : Word.x (op &&& 0xFFF0#16) = op.x := Word.x_and_of_allOnes (by decide)
    have hy : Word.y (op &&& 0xFFF0#16) = op.y := Word.y_and_of_allOnes (by decide)
    rcases hhi with hhi | hhi <;> simp [decode, hhi', hhi, hx, hy]
  · have hhi' : Word.hi (op &&& 0xFF0F#16) = op.hi := Word.hi_and_of_allOnes (by decide)
    have hx : Word.x (op &&& 0xFF0F#16) = op.x := Word.x_and_of_allOnes (by decide)
    have hn' : Word.n (op &&& 0xFF0F#16) = op.n := Word.n_and_of_allOnes (by decide)
    rcases hn with hn | hn <;> simp [decode, decode8, hhi', hhi, hn', hn, hx]

/-- Settles O1, word by word. -/
theorem decodesWordsOfEachFamily : Obligations.DecodesWordsOfEachFamily := by
  unfold Obligations.DecodesWordsOfEachFamily
  decide

end Sys2Proof
end

section
/-! SUPPORT. An enabled Step: that it runs the word fetched, that it always answers, and the no-op of an unimplemented word. -/

namespace Sys2Proof.Machine

/-- An enabled Step runs what the opcode fetched decodes to (30_encoding.md R65). -/
theorem step_of_fetch_ok {s : State} {op : Word} (hs : s.fault = .none) (hop : s.fetch = .ok op) :
    step s = finishStep (exec (decode op) s) := by
  simp only [step, hs, hop]

/-- Settles O6: the two bytes at PC are the word fetched. -/
theorem stepRunsTheDecodedInstruction : Obligations.StepRunsTheDecodedInstruction := by
  intro s i hs hpc _ hbytes
  have hdecode : decode (wordOfBytes (s.mem.read s.pc.toNat) (s.mem.read (s.pc.toNat + 1))) = i :=
    congrArg Prod.fst (Except.ok.inj hbytes)
  have hstep : step s = finishStep (exec i s) := hdecode ▸ step_of_fetch_ok hs (State.fetch_eq_ok hpc)
  refine ⟨hstep, fun t ht => ?_⟩
  rw [hstep, ht]
  rfl

/-- Settles O8: a fetch answers an opcode, whose instruction answers, or a fault, which is raised. -/
theorem stepIsEnabledExactlyWithoutFault : Obligations.StepIsEnabledExactlyWithoutFault := by
  refine fun s => ⟨fun hs => ?_, step_of_fault⟩
  cases hfetch : s.fetch with
  | ok op =>
    obtain ⟨t, ht⟩ := exec_answers (decode op) s
    exact ⟨t.endStep, by rw [step_of_fetch_ok hs hfetch, ht, finishStep]⟩
  | error r => exact ⟨_, step_of_fetch_error hs hfetch⟩

/-- Placing a word as the host's check numbers it places the word. -/
theorem State.withFetchWord_toNat (s : State) (op : Word) : s.withFetchWord 16 op.toNat = s.placeWord op := by
  rw [State.withFetchWord, Nat.mod_eq_of_lt op.isLt, BitVec.ofNat_toNat, BitVec.setWidth_eq]

/-- Settles O9: the word placed is the one fetched, and placing it sets FAULT to None. -/
theorem placedWordIsRunNext : Obligations.PlacedWordIsRunNext := by
  intro s op hm hpc
  rw [State.withFetchWord_toNat]
  exact step_of_fetch_ok rfl (State.fetch_placeWord op hm hpc)

/-- Settles O38: the words R61 lists are those left undecoded, and the no-op's one output is the diagnostic. -/
theorem unimplementedWordIsALoggedNoOp : Obligations.UnimplementedWordIsALoggedNoOp := by
  refine ⟨fun op hop => decode_eq_unimpl_iff.2 ⟨hop, rfl⟩, fun s op => ⟨_, rfl, rfl, rfl, ?_⟩⟩
  exact ((Frame.refl [] [.events] s).emit _ (by simp)).jump _

end Sys2Proof.Machine
end

section
/-! SUPPORT. Families 0, 1 and 2: the words that a family's row selects, the branches of a call and of a return, and what
each instruction of flow changes and leaves unchanged. -/

namespace Sys2Proof.Machine

/-! ### The words of a row of the opcode map (30_encoding.md R60) -/

section
variable {mk : Word → Instr}

/-- A row of mask F000 states what the decoder answers on one family. -/
theorem encodedAs_of_hi {v : Nibble} (h : ∀ op : Word, op.hi = v → decode op = mk op) :
    EncodedAs 0xF000 (v ++ 0#12) mk :=
  fun op hop => h op ((Word.mask_F000 op v).1 hop)

/-- A row of mask F00F states what it answers on one family and low nibble. -/
theorem encodedAs_of_hi_n {v n : Nibble} (h : ∀ op : Word, op.hi = v → op.n = n → decode op = mk op) :
    EncodedAs 0xF00F (v ++ 0#4 ++ 0#4 ++ n) mk := fun op hop => by
  obtain ⟨hhi, hn⟩ := (Word.mask_F00F op v n).1 hop
  exact h op hhi hn

end

/-! ### Operands and sequences -/

/-- An address immediate is widened with zeros (30_encoding.md R53). -/
@[simp] theorem toNat_addrOfNnn (nnn : Addr12) : (addrOfNnn nnn).toNat = nnn.toNat :=
  BitVec.toNat_setWidth_of_le (by decide)

/-- A sequence goes on from the next state of its first instruction. -/
theorem execAll_cons_of_next {i : Instr} {is : List Instr} {s u : State} (h : exec i s = .next u) :
    execAll (i :: is) s = execAll is u := by
  simp only [execAll, h]

/-! ### The branches of CALL and RET (40_flow.md R71, R73) -/

section
variable {s : State}

/-- A call with room on the stack pushes the address after it and jumps. -/
theorem exec_call_of_room (h : s.sp ≠ 16) (nnn : Addr12) :
    exec (.call nnn) s = .next ((s.push (s.pc + 2)).jump (addrOfNnn nnn)) :=
  congrArg Host.Outcome.next (if_neg h)

/-- A call with 16 addresses held overflows (60_exceptions.md R142). -/
theorem exec_call_of_full (h : s.sp = 16) (nnn : Addr12) : exec (.call nnn) s = .next (s.raise .stackOverflow) :=
  congrArg Host.Outcome.next (if_pos h)

/-- A return with an address held jumps to the top one and drops it. -/
theorem exec_ret_of_held (h : s.sp ≠ 0) : exec .ret s = .next (s.dropTop.jump (s.slot (s.sp - 1).val)) :=
  congrArg Host.Outcome.next (if_neg h)

/-- A return with none held underflows (60_exceptions.md R143). -/
theorem exec_ret_of_empty (h : s.sp = 0) : exec .ret s = .next (s.raise .stackUnderflow) :=
  congrArg Host.Outcome.next (if_pos h)

/-! ### The stack pointer (10_state.md R17) -/

/-- With room on the stack, SP + 1 does not wrap. -/
theorem State.val_sp_add_one (h : s.sp ≠ 16) : (s.sp + 1).val = s.sp.val + 1 :=
  Fin.val_add_one_of_lt (Fin.lt_last_iff_ne_last.2 h)

/-- With an address held, SP - 1 does not wrap. -/
theorem State.val_sp_sub_one (h : s.sp ≠ 0) : (s.sp - 1).val = s.sp.val - 1 := by
  rw [Fin.coe_sub_one, if_neg h]

/-- With room on the stack, a push leaves its word in the slot at SP. -/
theorem State.push_slot_sp (h : s.sp ≠ 16) (w : Word) : (s.push w).slot s.sp.val = w := by
  rw [State.push_slot, if_pos ⟨rfl, Fin.val_lt_last h⟩]

/-- A push leaves every other slot as it was. -/
theorem State.push_slot_of_ne {k : Nat} (h : k ≠ s.sp.val) (w : Word) : (s.push w).slot k = s.slot k := by
  rw [State.push_slot, if_neg fun hk => h hk.1]

end

/-! ### The statements -/

/-- Settles O12, branch by branch: the push and the jump, and the raised fault. -/
theorem callPushesTheAddressAfterIt : Obligations.CallPushesTheAddressAfterIt := by
  refine ⟨encodedAs_of_hi (v := 0x2) fun op hhi => by simp [decode, hhi],
    fun s nnn => ⟨fun hroom => ?_, fun hfull => ?_⟩⟩
  · exact ⟨_, exec_call_of_room hroom nnn, State.push_slot_sp hroom _, State.val_sp_add_one hroom,
      fun _ hk => State.push_slot_of_ne hk _, toNat_addrOfNnn nnn, ((Frame.refl _ _ s).push _ (by simp)).jump _⟩
  · exact ⟨_, exec_call_of_full hfull nnn, State.raise_raisesOnly _ s⟩

/-- Settles O13, branch by branch: the pop and the jump, and the raised fault. -/
theorem returnPopsThePc : Obligations.ReturnPopsThePc := by
  refine ⟨encodedAs_of_hi_n (v := 0x0) (n := 0xE) fun op hhi hn => by simp [decode_family0 hhi, decode0, hn],
    fun s => ⟨fun hheld => ?_, fun hempty => ?_⟩⟩
  · have hsp := State.val_sp_sub_one hheld
    exact ⟨_, exec_ret_of_held hheld, hsp, congrArg s.slot hsp, fun _ => rfl,
      ((Frame.refl _ _ s).dropTop (by simp)).jump _⟩
  · exact ⟨_, exec_ret_of_empty hempty, State.raise_raisesOnly _ s⟩

/-- Settles O14: the return finds SP one above the call's, and in the slot below it the address that the call pushed. -/
theorem callThenReturnResumes : Obligations.CallThenReturnResumes := by
  intro s nnn hroom
  have hheld : s.sp + 1 ≠ 0 := Fin.ne_of_val_ne (by rw [State.val_sp_add_one hroom]; exact Nat.succ_ne_zero _)
  have hsp : s.sp + 1 - 1 = s.sp := add_sub_cancel_right _ _
  refine ⟨_, (execAll_cons_of_next (exec_call_of_room hroom nnn)).trans
    (execAll_cons_of_next (exec_ret_of_held hheld)), ?_, hsp, fun k hk => State.push_slot_of_ne hk.ne _,
    ((((Frame.refl _ _ s).push _ (by simp)).jump _).dropTop (by simp)).jump _⟩
  calc (s.push (s.pc + 2)).slot (s.sp + 1 - 1).val
    _ = (s.push (s.pc + 2)).slot s.sp.val := by rw [hsp]
    _ = s.pc + 2 := State.push_slot_sp hroom _

/-- Settles O10: the one command, the blank grid it leaves, and the frame of the clear. -/
theorem clearScreen : Obligations.ClearScreen := by
  refine ⟨encodedAs_of_hi_n (v := 0x0) (n := 0x0) fun op hhi hn => by simp [decode_family0 hhi, decode0, hn],
    fun s => ⟨_, rfl, rfl, rfl, Display.pixel_blank, ?_⟩⟩
  exact ((Frame.refl _ _ s).clearDisplay (by simp) (by simp)).jump _

/-- Settles O11: a jump writes PC alone, so a jump to PC's own value writes nothing new. -/
theorem jumpSetsPc : Obligations.JumpSetsPc := by
  refine ⟨encodedAs_of_hi (v := 0x1) fun op hhi => by simp [decode, hhi],
    fun s nnn => ⟨⟨_, rfl, toNat_addrOfNnn nnn, (Frame.refl _ _ s).jump _⟩, fun hself => ?_⟩⟩
  have hpc : addrOfNnn nnn = s.pc := BitVec.eq_of_toNat_eq ((toNat_addrOfNnn nnn).trans hself.symm)
  calc exec (.jp nnn) s
    _ = .next (s.jump (addrOfNnn nnn)) := rfl
    _ = .next (s.jump s.pc) := by rw [hpc]
    _ = .next s := rfl

end Sys2Proof.Machine
end

section
/-! SUPPORT. The skips: where a skip leaves PC, and that it writes nothing else. -/

namespace Sys2Proof.Machine

/-! ### The two lengths of a skip (41_skip.md R80) -/

/-- A skip on a Boolean test goes by the condition that the test decides. -/
theorem State.skipIf_pc_of_iff {c : Bool} {p : Prop} [Decidable p] (h : c = true ↔ p) (s : State) :
    (s.skipIf c).pc = if p then s.pc + 4 else s.pc + 2 :=
  (s.skipIf_pc c).trans (if_congr h rfl rfl)

/-- A skip writes PC alone. -/
theorem Frame.skipIf {regs : List RegIdx} {parts : List Part} {s u : State} (h : Frame regs parts s u) (c : Bool) :
    Frame regs parts s (u.skipIf c) :=
  h.jump _

/-! ### The statements -/

/-- Settles O16: each word is selected by its family, and each instruction is a skip on a test of its two operands. -/
theorem skipsOnRegisters : Obligations.SkipsOnRegisters := by
  refine ⟨encodedAs_of_hi (v := 0x3) fun op hhi => by simp [decode, hhi],
    encodedAs_of_hi (v := 0x4) fun op hhi => by simp [decode, hhi],
    encodedAs_of_hi (v := 0x5) fun op hhi => by simp [decode, hhi],
    encodedAs_of_hi (v := 0x9) fun op hhi => by simp [decode, hhi], fun s x y nn => ?_⟩
  have hframe (c : Bool) : Frame [] [] s (s.skipIf c) := (Frame.refl _ _ s).skipIf c
  exact ⟨⟨_, rfl, State.skipIf_pc_of_iff beq_iff_eq s, hframe _⟩,
    ⟨_, rfl, State.skipIf_pc_of_iff bne_iff_ne s, hframe _⟩,
    ⟨_, rfl, State.skipIf_pc_of_iff beq_iff_eq s, hframe _⟩,
    ⟨_, rfl, State.skipIf_pc_of_iff bne_iff_ne s, hframe _⟩⟩

end Sys2Proof.Machine
end

section
/-! SUPPORT. The instructions that write one register and go on: what the register holds, and that nothing else changes. -/

namespace Sys2Proof.Machine

/-! ### A write of one register (10_state.md R10) -/

/-- The register written holds the byte. -/
theorem State.setReg_reg_self (s : State) (x : RegIdx) (b : Byte) : (s.setReg x b).reg x = b := by
  rw [State.setReg_reg, if_pos rfl]

/-- A write of one register and the advance of PC are framed by that register. -/
theorem Frame.setReg_advance (s : State) (x : RegIdx) (b : Byte) : Frame [x] [] s (s.setReg x b).advance :=
  ((Frame.refl _ _ s).setReg b (List.mem_singleton_self x)).jump _

/-! ### The statements -/

/-- Settles O17: each word is selected by its family, and each instruction is one write of Vx and the advance of PC. -/
theorem loadAndAddImmediate : Obligations.LoadAndAddImmediate := by
  refine ⟨encodedAs_of_hi (v := 0x6) fun op hhi => by simp [decode, hhi],
    encodedAs_of_hi (v := 0x7) fun op hhi => by simp [decode, hhi], fun s x nn => ⟨?_, ?_⟩⟩
  · exact ⟨_, rfl, State.setReg_reg_self s x nn, rfl, Frame.setReg_advance s x nn⟩
  · have hsum : (s.reg x + nn).toNat = ((s.reg x).toNat + nn.toNat) % 256 := BitVec.toNat_add _ _
    exact ⟨_, rfl, (congrArg BitVec.toNat (State.setReg_reg_self s x _)).trans hsum, rfl, Frame.setReg_advance s x _⟩

end Sys2Proof.Machine
end

section
/-! SUPPORT. Family 8: its words, the numbers that a difference and a flag are, and what each order of the two writes leaves
in Vx and in VF. -/

namespace Sys2Proof.Machine

/-! ### The words of family 8 (30_encoding.md R56) -/

/-- A row of family 8 states what the decoder answers on one low nibble. -/
theorem encodedAs_family8 {mk : Word → Instr} {n : Nibble} (h : ∀ op : Word, op.n = n → decode8 op = mk op) :
    EncodedAs 0xF00F (0x8#4 ++ 0#4 ++ 0#4 ++ n) mk :=
  encodedAs_of_hi_n fun op hhi hn => (decode_family8 hhi).trans (h op hn)

/-! ### Numbers -/

/-- A difference of bytes is taken modulo 256 (43_alu.md R96, R98). -/
theorem toNat_byte_sub (a b : Byte) : (a - b).toNat = (a.toNat + 256 - b.toNat) % 256 := by
  have hb := b.isLt
  rw [BitVec.toNat_sub]
  omega

/-- The flag of a decided condition. -/
theorem flagByte_decide (p : Prop) [Decidable p] : flagByte (decide p) = if p then 1 else 0 :=
  if_congr decide_eq_true_iff rfl rfl

/-- A flag as a number. -/
theorem toNat_flagByte (c : Bool) : (flagByte c).toNat = c.toNat := by cases c <;> rfl

/-- The flag of SHR is the remainder of the halving (43_alu.md R97). -/
theorem toNat_flagByte_shiftedOutRight (a : Byte) : (flagByte (shiftedOutRight a)).toNat = a.toNat % 2 := by
  rw [toNat_flagByte, shiftedOutRight, BitVec.getLsbD, Nat.toNat_testBit, pow_zero, Nat.div_one]

/-- The flag of SHL is the top bit (43_alu.md R99). -/
theorem toNat_flagByte_shiftedOutLeft (a : Byte) : (flagByte (shiftedOutLeft a)).toNat = a.toNat / 128 := by
  have ha := a.isLt
  rw [toNat_flagByte, shiftedOutLeft, BitVec.getLsbD, Nat.toNat_testBit]
  omega

/-- A shift to the right by one halves. -/
theorem toNat_byte_shiftRight_one (a : Byte) : (a >>> 1).toNat = a.toNat / 2 := by
  rw [BitVec.toNat_ushiftRight, Nat.shiftRight_eq_div_pow, pow_one]

/-- A shift to the left by one doubles modulo 256. -/
theorem toNat_byte_shiftLeft_one (a : Byte) : (a <<< 1).toNat = 2 * a.toNat % 256 := by
  rw [BitVec.toNat_shiftLeft, Nat.shiftLeft_eq, pow_one, Nat.mul_comm]

/-- A flag has no bit to keep in a shift to the right. -/
theorem flagByte_shiftRight_one (c : Bool) : flagByte c >>> 1 = 0 := by cases c <;> rfl

/-- A flag doubled does not wrap. -/
theorem toNat_flagByte_shiftLeft_one (c : Bool) : (flagByte c <<< 1).toNat = 2 * (flagByte c).toNat := by
  cases c <;> rfl

/-! ### The two writes (43_alu.md R90) -/

/-- VF holds the flag written. -/
theorem State.setFlag_reg_vf (s : State) (c : Bool) : (s.setFlag c).reg vf = flagByte c :=
  State.setReg_reg_self s vf _

/-- Every other register is as before. -/
theorem State.setFlag_reg_of_ne {s : State} {x : RegIdx} (h : x ≠ vf) (c : Bool) : (s.setFlag c).reg x = s.reg x := by
  rw [State.setFlag_reg, if_neg h]

/-- The result first: a flag written after it leaves it in Vx unless Vx is VF. -/
theorem State.setReg_setFlag_reg {s : State} {x : RegIdx} (h : x ≠ vf) (b : Byte) (c : Bool) :
    ((s.setReg x b).setFlag c).reg x = b :=
  (State.setFlag_reg_of_ne h c).trans (State.setReg_reg_self s x b)

/-- The flag first: a result written after it leaves it in VF unless Vx is VF. -/
theorem State.setFlag_setReg_reg_vf {s : State} {x : RegIdx} (h : x ≠ vf) (b : Byte) (c : Bool) :
    ((s.setFlag c).setReg x b).reg vf = flagByte c := by
  rw [State.setReg_reg, if_neg h.symm, State.setFlag_reg_vf]

/-- SHR's second statement halves the register as it stands. -/
theorem State.shiftRegRight_reg (s : State) (x : RegIdx) : (s.shiftRegRight x).reg x = s.reg x >>> 1 :=
  State.setReg_reg_self s x _

/-- SHL's second statement doubles the register as it stands. -/
theorem State.shiftRegLeft_reg (s : State) (x : RegIdx) : (s.shiftRegLeft x).reg x = s.reg x <<< 1 :=
  State.setReg_reg_self s x _

/-! ### The statements -/

/-- Settles O18: each instruction is one write of Vx, a byte whose bits are those of the operation, and the advance of PC. -/
theorem moveAndLogic : Obligations.MoveAndLogic := by
  refine ⟨encodedAs_family8 (n := 0x0) fun op hn => by simp [decode8, hn],
    encodedAs_family8 (n := 0x1) fun op hn => by simp [decode8, hn],
    encodedAs_family8 (n := 0x2) fun op hn => by simp [decode8, hn],
    encodedAs_family8 (n := 0x3) fun op hn => by simp [decode8, hn], fun s x y => ?_⟩
  have hreg (b : Byte) : (s.setReg x b).advance.reg x = b := State.setReg_reg_self s x b
  have hframe (b : Byte) : Frame [x] [] s (s.setReg x b).advance := Frame.setReg_advance s x b
  exact ⟨⟨_, rfl, hreg _, rfl, hframe _⟩,
    ⟨_, rfl, fun k => by rw [hreg, BitVec.getLsbD_or], rfl, hframe _⟩,
    ⟨_, rfl, fun k => by rw [hreg, BitVec.getLsbD_and], rfl, hframe _⟩,
    ⟨_, rfl, fun k => by rw [hreg, BitVec.getLsbD_xor], rfl, hframe _⟩⟩

/-- Settles O19: each instruction writes a wrapped result and then a flag, which stands in VF whatever x is. -/
theorem addAndSubtractSetVf : Obligations.AddAndSubtractSetVf := by
  refine ⟨encodedAs_family8 (n := 0x4) fun op hn => by simp [decode8, hn],
    encodedAs_family8 (n := 0x5) fun op hn => by simp [decode8, hn],
    encodedAs_family8 (n := 0x7) fun op hn => by simp [decode8, hn], fun s x y => ?_⟩
  have hreg (hx : x ≠ vf) (b : Byte) (c : Bool) : (((s.setReg x b).setFlag c).advance.reg x).toNat = b.toNat :=
    congrArg BitVec.toNat (State.setReg_setFlag_reg hx b c)
  have hflag (b : Byte) (p : Prop) [Decidable p] :
      ((s.setReg x b).setFlag (decide p)).advance.reg vf = if p then 1 else 0 :=
    (State.setFlag_reg_vf _ _).trans (flagByte_decide p)
  exact ⟨⟨_, rfl, fun hx => (hreg hx _ _).trans (BitVec.toNat_add _ _), hflag _ _, rfl,
      instructionsKeepTheirFrame (.addReg x y) s _ rfl⟩,
    ⟨_, rfl, fun hx => (hreg hx _ _).trans (toNat_byte_sub _ _), hflag _ _, rfl,
      instructionsKeepTheirFrame (.subReg x y) s _ rfl⟩,
    ⟨_, rfl, fun hx => (hreg hx _ _).trans (toNat_byte_sub _ _), hflag _ _, rfl,
      instructionsKeepTheirFrame (.subn x y) s _ rfl⟩⟩

/-- Settles O20: each instruction writes the flag and then shifts Vx as it stands, so for x = 0xF it shifts the flag. -/
theorem shiftsByOne : Obligations.ShiftsByOne := by
  refine ⟨encodedAs_family8 (n := 0x6) fun op hn => by simp [decode8, hn],
    encodedAs_family8 (n := 0xE) fun op hn => by simp [decode8, hn], fun s x => ⟨?_, ?_⟩⟩
  · refine ⟨_, rfl, fun hx => ⟨?_, ?_⟩, ?_, rfl, instructionsKeepTheirFrame (.shr x) s _ rfl⟩
    · rw [State.advance_reg, State.shiftRegRight_reg, State.setFlag_reg_of_ne hx, toNat_byte_shiftRight_one]
    · exact (congrArg BitVec.toNat (State.setFlag_setReg_reg_vf hx _ _)).trans (toNat_flagByte_shiftedOutRight _)
    · rintro rfl
      rw [State.advance_reg, State.shiftRegRight_reg, State.setFlag_reg_vf, flagByte_shiftRight_one]
  · refine ⟨_, rfl, fun hx => ⟨?_, ?_⟩, ?_, rfl, instructionsKeepTheirFrame (.shl x) s _ rfl⟩
    · rw [State.advance_reg, State.shiftRegLeft_reg, State.setFlag_reg_of_ne hx, toNat_byte_shiftLeft_one]
    · exact (congrArg BitVec.toNat (State.setFlag_setReg_reg_vf hx _ _)).trans (toNat_flagByte_shiftedOutLeft _)
    · rintro rfl
      rw [State.advance_reg, State.shiftRegLeft_reg, State.setFlag_reg_vf, toNat_flagByte_shiftLeft_one,
        toNat_flagByte_shiftedOutLeft]

end Sys2Proof.Machine
end

section
/-! SUPPORT. Families A, B and C: the exact sum of an address immediate and a byte, the bits a mask keeps, and what each
instruction writes. -/

namespace Sys2Proof.Machine

/-! ### Operands -/

/-- A byte is widened with zeros. -/
theorem toNat_wordOfByte (b : Byte) : (wordOfByte b).toNat = b.toNat :=
  BitVec.toNat_setWidth_of_le (by decide)

/-- An address immediate and a byte add up without wrapping at 16 bits (44_misc.md R107). -/
theorem toNat_addrOfNnn_add_wordOfByte (nnn : Addr12) (b : Byte) :
    (addrOfNnn nnn + wordOfByte b).toNat = nnn.toNat + b.toNat := by
  have hnnn := nnn.isLt
  have hb := b.isLt
  rw [BitVec.toNat_add, toNat_addrOfNnn, toNat_wordOfByte]
  omega

/-- A bit that the mask lacks is not set in a masked byte. -/
theorem getLsbD_and_of_mask_false {mask : Byte} {k : Nat} (h : mask.getLsbD k = false) (b : Byte) :
    (b &&& mask).getLsbD k = false := by
  rw [BitVec.getLsbD_and, h, Bool.and_false]

/-! ### The statements -/

/-- Settles O21: I is nnn widened with zeros, and the write of I and the advance of PC are framed by I. -/
theorem loadIndex : Obligations.LoadIndex := by
  refine ⟨encodedAs_of_hi (v := 0xA) fun op hhi => by simp [decode, hhi],
    fun s nnn => ⟨_, rfl, toNat_addrOfNnn nnn, rfl, ?_⟩⟩
  exact ((Frame.refl _ _ s).setIndex _ (List.mem_singleton_self _)).jump _

/-- Settles O22: the jump goes to the exact sum, which is at most 0xFFF + 0xFF. -/
theorem jumpWithOffset : Obligations.JumpWithOffset := by
  refine ⟨encodedAs_of_hi (v := 0xB) fun op hhi => by simp [decode, hhi], fun s nnn => ?_⟩
  have hsum := toNat_addrOfNnn_add_wordOfByte nnn (s.reg 0)
  have hbound : nnn.toNat + (s.reg 0).toNat ≤ 0xFFF + 0xFF :=
    Nat.add_le_add (Nat.le_of_lt_succ nnn.isLt) (Nat.le_of_lt_succ (s.reg 0).isLt)
  exact ⟨_, rfl, hsum, hsum.trans_le hbound, (Frame.refl _ _ s).jump _⟩

/-- Settles O23: Vx reads back the masked draw, whose bits outside nn the mask clears. -/
theorem randomIsMasked : Obligations.RandomIsMasked := by
  refine ⟨encodedAs_of_hi (v := 0xC) fun op hhi => by simp [decode, hhi], fun s x nn => ?_⟩
  have hreg : (s.setReg x (s.input.random &&& nn)).advance.reg x = s.input.random &&& nn := State.setReg_reg_self s x _
  refine ⟨_, rfl, hreg, fun k hk => ?_, rfl, Frame.setReg_advance s x _⟩
  rw [hreg]
  exact getLsbD_and_of_mask_false hk _

end Sys2Proof.Machine
end

section
/-! SUPPORT. Families D and E: the draw and the skips on keys, what a sprite's plot does to the grid and to the collision
bit, and the second draw of a sprite. -/

namespace Sys2Proof.Machine

/-! ### The words of family E (30_encoding.md R57) -/

/-- A row of mask F0FF states what the decoder answers on one family and low byte. -/
theorem encodedAs_of_hi_nn {mk : Word → Instr} {v : Nibble} {nn : Byte}
    (h : ∀ op : Word, op.hi = v → op.nn = nn → decode op = mk op) : EncodedAs 0xF0FF (v ++ 0#4 ++ nn) mk :=
  fun op hop => by
    obtain ⟨hhi, hnn⟩ := (Word.mask_F0FF op v nn).1 hop
    exact h op hhi hnn

/-! ### The branches of DRW, SKP and SKNP (45_draw_key.md R113 to R115) -/

section
variable {s : State}

/-- An empty sprite, or one that lies in memory, is drawn. -/
theorem exec_drw_of_valid {n : Nibble} (h : n.toNat = 0 ∨ s.i.toNat + (n.toNat - 1) ≤ 0xFFF) (x y : RegIdx) :
    exec (.drw x y n) s = .next (s.drawSprite x y n).advance := by
  have hrun : s.runFault (rowCount n) = none := State.runFault_eq_none.2 h
  simp only [exec, execDrw, hrun]

/-- A sprite that runs past the end of memory faults at the lowest invalid address. -/
theorem exec_drw_of_invalid {n : Nibble} (h : 0 < n.toNat ∧ 0xFFF < s.i.toNat + (n.toNat - 1)) (x y : RegIdx) :
    exec (.drw x y n) s = .next (s.raise (.addressOutOfRange (max s.i.toNat 0x1000))) := by
  have hrun : s.runFault (rowCount n) = some (.addressOutOfRange (max s.i.toNat 0x1000)) :=
    State.runFault_eq_some.2 ⟨h, rfl⟩
  simp only [exec, execDrw, hrun]

/-- SKP and SKNP with a key's number are skips on the level of that key. -/
theorem exec_skp_sknp_of_key {x : RegIdx} (h : (s.reg x).toNat ≤ 15) :
    exec (.skp x) s = .next (s.skipIf (s.input.isPressed (s.reg x).toNat)) ∧
      exec (.sknp x) s = .next (s.skipIf (!s.input.isPressed (s.reg x).toNat)) := by
  simp only [exec, execSkp, execSknp, keyFault_eq_none.2 h, and_self]

/-- With any other number both fault and report it. -/
theorem exec_skp_sknp_of_no_key {x : RegIdx} (h : 15 < (s.reg x).toNat) :
    exec (.skp x) s = .next (s.raise (.keyIndexOutOfRange (s.reg x))) ∧
      exec (.sknp x) s = .next (s.raise (.keyIndexOutOfRange (s.reg x))) := by
  simp only [exec, execSkp, execSknp, keyFault_eq_some.2 ⟨h, rfl⟩, and_self]

/-- A skip on the opposite of a test is short when the test holds. -/
theorem State.skipIf_not_pc (s : State) (c : Bool) : (s.skipIf (!c)).pc = if c then s.pc + 2 else s.pc + 4 := by
  cases c <;> rfl

end

/-! ### The pixels of a grid -/

/-- A grid is given by its 64 by 32 pixels. -/
theorem Display.ext_pixel {d e : Display} (h : ∀ cx cy, cx < 64 → cy < 32 → d.pixel cx cy = e.pixel cx cy) : d = e := by
  refine Vector.ext fun cy hy => Vector.ext fun cx hx => ?_
  simpa only [Display.pixel, Nat.mod_eq_of_lt hx, Nat.mod_eq_of_lt hy] using h cx cy hx hy

/-! ### What a plot does (60_exceptions.md R157) -/

/-- From `acc` to `acc'` every pixel is XORed with the mask, and the flag is raised if the mask has turned a lit pixel
off. -/
structure Display.Plots (mask : Nat → Nat → Bool) (acc acc' : Display × Bool) : Prop where
  pixel : ∀ cx cy, cx < 64 → cy < 32 → acc'.1.pixel cx cy = (acc.1.pixel cx cy ^^ mask cx cy)
  collides : acc'.2 = true ↔
    acc.2 = true ∨ ∃ cx cy, cx < 64 ∧ cy < 32 ∧ mask cx cy = true ∧ acc.1.pixel cx cy = true

/-- Nothing is plotted with a mask that is nowhere set. -/
theorem Display.Plots.refl {mask : Nat → Nat → Bool} (h : ∀ cx cy, mask cx cy = false) (acc : Display × Bool) :
    Display.Plots mask acc acc :=
  ⟨by simp [h], by simp [h]⟩

/-- Two plots one after the other are one plot of both masks, if these have no pixel in common: the second then meets every
pixel of its own as it was before the first. -/
theorem Display.Plots.trans {f g both : Nat → Nat → Bool} {a b c : Display × Bool} (hf : Display.Plots f a b)
    (hg : Display.Plots g b c) (hboth : ∀ cx cy, cx < 64 → cy < 32 → both cx cy = (f cx cy || g cx cy))
    (hdisj : ∀ cx cy, cx < 64 → cy < 32 → f cx cy = true → g cx cy = false) : Display.Plots both a c where
  pixel cx cy hx hy := by
    have hd := hdisj cx cy hx hy
    rw [hg.pixel cx cy hx hy, hf.pixel cx cy hx hy, hboth cx cy hx hy, Bool.xor_assoc]
    cases hfc : f cx cy with
    | false => simp
    | true => simp [hd hfc]
  collides := by
    have hsecond (cx cy : Nat) (hx : cx < 64) (hy : cy < 32) (hgc : g cx cy = true) :
        b.1.pixel cx cy = a.1.pixel cx cy := by
      have hfc : f cx cy = false := Bool.eq_false_iff.2 fun hfc => by simp [hdisj cx cy hx hy hfc] at hgc
      rw [hf.pixel cx cy hx hy, hfc, Bool.xor_false]
    rw [hg.collides, hf.collides, or_assoc]
    refine or_congr_right ⟨?_, ?_⟩
    · rintro (⟨cx, cy, hx, hy, hm, hp⟩ | ⟨cx, cy, hx, hy, hm, hp⟩)
      · exact ⟨cx, cy, hx, hy, by simp [hboth cx cy hx hy, hm], hp⟩
      · exact ⟨cx, cy, hx, hy, by simp [hboth cx cy hx hy, hm], hsecond cx cy hx hy hm ▸ hp⟩
    · rintro ⟨cx, cy, hx, hy, hm, hp⟩
      rw [hboth cx cy hx hy, Bool.or_eq_true] at hm
      rcases hm with hm | hm
      · exact Or.inl ⟨cx, cy, hx, hy, hm, hp⟩
      · exact Or.inr ⟨cx, cy, hx, hy, hm, (hsecond cx cy hx hy hm).trans hp⟩

/-- Plotting one bit plots the mask of its pixel. -/
theorem Display.plotBit_plots (acc : Display × Bool) (px py : Nat) (bit : Bool) :
    Display.Plots (fun cx cy => bit && decide (cx = px % 64 ∧ cy = py % 32)) acc (Display.plotBit acc px py bit) where
  pixel cx cy hx hy := by
    cases bit with
    | false => simp [Display.plotBit_eq]
    | true =>
      simp only [Display.plotBit_eq, if_true, Display.pixel_flip, Nat.mod_eq_of_lt hx, Nat.mod_eq_of_lt hy, Bool.true_and]
      split <;> simp [*]
  collides := by
    have hmod : acc.1.pixel (px % 64) (py % 32) = acc.1.pixel px py := by simp only [Display.pixel, Nat.mod_mod]
    rw [Display.plotBit_eq, Bool.or_eq_true, Bool.and_eq_true]
    refine or_congr_right ⟨?_, ?_⟩
    · rintro ⟨hb, hp⟩
      exact ⟨px % 64, py % 32, Nat.mod_lt _ (by decide), Nat.mod_lt _ (by decide), by simp [hb], hmod.trans hp⟩
    · rintro ⟨cx, cy, -, -, hm, hp⟩
      simp only [Bool.and_eq_true, decide_eq_true_eq] at hm
      obtain ⟨hb, rfl, rfl⟩ := hm
      exact ⟨hb, hmod.symm.trans hp⟩

/-! ### The pixels of a sprite -/

/-- `Display.covers` at a corner that is not reduced to bytes, by the first `n` columns of the sprite: the loops of
`Display.draw` count rows past 255 and plot a row column by column. -/
def Display.coversTo (n : Nat) (rows : List Byte) (x y cx cy : Nat) : Bool :=
  decide ((cx + 64 - x % 64) % 64 < n) &&
    (rows[(cy + 32 - y % 32) % 32]?.getD 0).getLsbD (7 - (cx + 64 - x % 64) % 64)

/-- All eight columns are the whole sprite. -/
theorem Display.covers_eq_coversTo (rows : List Byte) (x y : Byte) :
    Display.covers rows x y = Display.coversTo 8 rows x.toNat y.toNat :=
  rfl

/-- A pixel is covered exactly when some row has a set bit that falls on it. -/
theorem Display.coversTo_eq_true {n : Nat} {rows : List Byte} {x y cx cy : Nat} :
    Display.coversTo n rows x y cx cy = true ↔
      ∃ row, rows[(cy + 32 - y % 32) % 32]? = some row ∧ (cx + 64 - x % 64) % 64 < n ∧
        row.getLsbD (7 - (cx + 64 - x % 64) % 64) = true := by
  rw [Display.coversTo, Bool.and_eq_true, decide_eq_true_eq]
  cases rows[(cy + 32 - y % 32) % 32]? <;> simp

/-- One row covers no pixel of another line. -/
theorem Display.coversTo_singleton_of_ne (row : Byte) (n x : Nat) {y : Nat} (cx : Nat) {cy : Nat} (hy : cy < 32)
    (h : cy ≠ y % 32) : Display.coversTo n [row] x y cx cy = false := by
  have hrow : (cy + 32 - y % 32) % 32 ≠ 0 := by omega
  simp [Display.coversTo, hrow]

/-- Rows that start one line down, fewer than the lines of the grid, do not come round to the line above them. -/
theorem Display.coversTo_line_above {rows : List Byte} (hl : rows.length < 32) (n x y cx : Nat) :
    Display.coversTo n rows x (y + 1) cx (y % 32) = false := by
  have hrow : (y % 32 + 32 - (y + 1) % 32) % 32 = 31 := by omega
  simp [Display.coversTo, hrow, List.getElem?_eq_none (Nat.le_of_lt_succ hl)]

/-- The first row covers what it covers alone, the others what they cover one line down. -/
theorem Display.coversTo_cons (row : Byte) {rows : List Byte} (hl : rows.length < 32) (n x y cx : Nat) {cy : Nat}
    (hy : cy < 32) :
    Display.coversTo n (row :: rows) x y cx cy =
      (Display.coversTo n [row] x y cx cy || Display.coversTo n rows x (y + 1) cx cy) := by
  by_cases h : cy = y % 32
  · subst h
    rw [Display.coversTo_line_above hl, Bool.or_false]
    simp [Display.coversTo]
  · have hrow : (cy + 32 - y % 32) % 32 = (cy + 32 - (y + 1) % 32) % 32 + 1 := by omega
    rw [Display.coversTo_singleton_of_ne row n x cx hy h, Bool.false_or]
    simp [Display.coversTo, hrow]

/-- The first `n` columns cover no pixel of column `n`. -/
theorem Display.coversTo_column {n : Nat} (hn : n < 8) (rows : List Byte) (x y cy : Nat) :
    Display.coversTo n rows x y ((x + n) % 64) cy = false := by
  have hcol : ((x + n) % 64 + 64 - x % 64) % 64 = n := by omega
  simp [Display.coversTo, hcol]

/-- One more column of a row is one more bit. -/
theorem Display.coversTo_succ (row : Byte) {n cx cy : Nat} (hn : n < 8) (x y : Nat) (hx : cx < 64) (hy : cy < 32) :
    Display.coversTo (n + 1) [row] x y cx cy =
      (Display.coversTo n [row] x y cx cy || (row.getLsbD (7 - n) && decide (cx = (x + n) % 64 ∧ cy = y % 32))) := by
  by_cases hrow : cy = y % 32
  · by_cases hcol : cx = (x + n) % 64
    · have hc : (cx + 64 - x % 64) % 64 = n := by omega
      simp [Display.coversTo, hrow, hc, ← hcol]
    · have hc : (cx + 64 - x % 64) % 64 < n + 1 ↔ (cx + 64 - x % 64) % 64 < n := by omega
      simp [Display.coversTo, hcol, hc]
  · simp [Display.coversTo_singleton_of_ne row _ x cx hy hrow, hrow]

/-! ### The loops of `Display.draw` (60_exceptions.md R158) -/

/-- The loop over the columns plots, after `n` of them, the first `n` columns of the row. -/
theorem Display.foldl_plotBit_plots (acc : Display × Bool) (x y : Nat) (row : Byte) {n : Nat} (hn : n ≤ 8) :
    Display.Plots (Display.coversTo n [row] x y) acc
      ((List.range n).foldl (fun acc c => Display.plotBit acc (x + c) y (row.getLsbD (7 - c))) acc) := by
  induction n with
  | zero => exact Display.Plots.refl (fun cx cy => by simp [Display.coversTo]) acc
  | succ n ih =>
    rw [List.range_succ, List.foldl_append]
    refine (ih (by omega)).trans (Display.plotBit_plots _ (x + n) y _)
      (fun cx cy hx hy => Display.coversTo_succ row hn x y hx hy) (fun cx cy _ _ hc => ?_)
    by_contra hbit
    simp only [Bool.not_eq_false, Bool.and_eq_true, decide_eq_true_eq] at hbit
    simp [hbit.2.1, Display.coversTo_column hn] at hc

/-- The loop over the rows plots the sprite, if it has no more rows than the grid has lines. -/
theorem Display.plotRows_plots {rows : List Byte} (hl : rows.length ≤ 32) (acc : Display × Bool) (x y : Nat) :
    Display.Plots (Display.coversTo 8 rows x y) acc (Display.plotRows acc x y rows) := by
  induction rows generalizing acc y with
  | nil => exact Display.Plots.refl (fun cx cy => by simp [Display.coversTo]) acc
  | cons row rows ih =>
    have hrows : rows.length < 32 := hl
    refine (Display.foldl_plotBit_plots acc x y row le_rfl).trans (ih hrows.le _ (y + 1))
      (fun cx cy _ hy => Display.coversTo_cons row hrows 8 x y cx hy) (fun cx cy _ hy hc => ?_)
    by_cases h : cy = y % 32
    · exact h ▸ Display.coversTo_line_above hrows 8 x y cx
    · simp [Display.coversTo_singleton_of_ne row 8 x cx hy h] at hc

/-- A draw plots the pixels that the sprite covers. -/
theorem Display.draw_plots {rows : List Byte} (hl : rows.length ≤ 32) (d : Display) (x y : Byte) :
    Display.Plots (Display.covers rows x y) (d, false) (d.draw x y rows) :=
  Display.covers_eq_coversTo rows x y ▸ Display.plotRows_plots hl (d, false) x.toNat y.toNat

/-! ### Drawing twice (45_draw_key.md R113) -/

/-- A draw collides exactly when it covers a lit pixel. -/
theorem Display.draw_collides {rows : List Byte} (hl : rows.length ≤ 32) (d : Display) (x y : Byte) :
    (d.draw x y rows).2 = true ↔
      ∃ cx cy, cx < 64 ∧ cy < 32 ∧ Display.covers rows x y cx cy = true ∧ d.pixel cx cy = true := by
  simpa using (Display.draw_plots hl d x y).collides

/-- A sprite that fits the grid covers some pixel exactly when it has a set bit: its bit on column `c` of row `r` falls on
the pixel (x + c, y + r). -/
theorem Display.exists_covers_iff {rows : List Byte} (hl : rows.length ≤ 32) (x y : Byte) :
    (∃ cx cy, cx < 64 ∧ cy < 32 ∧ Display.covers rows x y cx cy = true) ↔ ∃ row ∈ rows, row ≠ 0 := by
  simp only [Display.covers_eq_coversTo, Display.coversTo_eq_true]
  constructor
  · rintro ⟨cx, cy, -, -, row, hrow, -, hbit⟩
    exact ⟨row, List.mem_of_getElem? hrow, fun h0 => by simp [h0] at hbit⟩
  · rintro ⟨row, hmem, hne⟩
    obtain ⟨r, hr, hrow⟩ := List.mem_iff_getElem.1 hmem
    obtain ⟨k, hk⟩ : ∃ k, row.getLsbD k = true := by
      by_contra hnone
      exact hne (BitVec.eq_of_getLsbD_eq fun k _ => by simpa using not_exists.1 hnone k)
    have hk8 : k < 8 := BitVec.lt_of_getLsbD hk
    have hcol : ((x.toNat + (7 - k)) % 64 + 64 - x.toNat % 64) % 64 = 7 - k := by omega
    have hline : ((y.toNat + r) % 32 + 32 - y.toNat % 32) % 32 = r := by omega
    refine ⟨(x.toNat + (7 - k)) % 64, (y.toNat + r) % 32, Nat.mod_lt _ (by decide), Nat.mod_lt _ (by decide), row, ?_⟩
    rw [hcol, hline, show 7 - (7 - k) = k by omega]
    exact ⟨List.getElem?_eq_some_iff.2 ⟨hr, hrow⟩, by omega, hk⟩

/-- A second draw collides exactly when some covered pixel was off before the first, which has lit it. -/
theorem Display.draw_draw_collides {rows : List Byte} (hl : rows.length ≤ 32) (d : Display) (x y : Byte) :
    ((d.draw x y rows).1.draw x y rows).2 = true ↔
      ∃ cx cy, cx < 64 ∧ cy < 32 ∧ Display.covers rows x y cx cy = true ∧ d.pixel cx cy = false := by
  rw [Display.draw_collides hl]
  refine exists_congr fun cx => exists_congr fun cy =>
    and_congr_right fun hx => and_congr_right fun hy => and_congr_right fun hm => ?_
  rw [(Display.draw_plots hl d x y).pixel cx cy hx hy, hm, Bool.xor_true, Bool.not_eq_true']

/-! ### The statements -/

/-- Settles O24: the run at I is checked once; a valid one is drawn and VF takes the collision bit, any other faults. -/
theorem drawSprite : Obligations.DrawSprite := by
  refine ⟨encodedAs_of_hi (v := 0xD) fun op hhi => by simp [decode, hhi], fun s x y n => ⟨fun h => ?_, fun h => ?_⟩⟩
  · refine ⟨_, s.runBytes (rowCount n), exec_drw_of_valid h x y, Memory.length_loadBytes .., fun r hr => ?_, rfl, rfl,
      State.setFlag_reg_vf _ _, rfl, ?_⟩
    · rw [List.getElem?_eq_getElem ((Memory.length_loadBytes s.mem s.i.toNat n.toNat).symm ▸ hr)]
      exact congrArg some (Memory.getElem_loadBytes ..)
    · exact (((Frame.refl _ _ s).drawDisplay _ _ _ (by simp) (by simp)).setReg _ (List.mem_singleton_self vf)).jump _
  · exact ⟨_, exec_drw_of_invalid h x y, State.raise_raisesOnly _ s⟩

/-- Settles O26: a covered pixel is inverted twice and any other never; the second draw collides where the first has lit a
pixel, which on a blank grid is any pixel that the sprite covers. -/
theorem drawingTwiceRestoresTheScreen : Obligations.DrawingTwiceRestoresTheScreen := by
  intro d x y rows hrows
  have hl : rows.length ≤ 32 := hrows.trans (by decide)
  refine ⟨Display.ext_pixel fun cx cy hx hy => ?_, Display.draw_draw_collides hl d x y, ?_⟩
  · rw [(Display.draw_plots hl _ x y).pixel cx cy hx hy, (Display.draw_plots hl d x y).pixel cx cy hx hy, Bool.xor_assoc,
      Bool.xor_self, Bool.xor_false]
  · rw [Display.draw_draw_collides hl, ← Display.exists_covers_iff hl x y]
    simp only [Display.pixel_blank, and_true]

/-- Settles O27: with a key's number SKP and SKNP are skips on the level of that key, with any other they fault. -/
theorem skipsOnKeys : Obligations.SkipsOnKeys := by
  refine ⟨encodedAs_of_hi_nn (v := 0xE) (nn := 0x9E) fun op hhi hnn => by simp [decode_familyE hhi, decodeE, hnn],
    encodedAs_of_hi_nn (v := 0xE) (nn := 0xA1) fun op hhi hnn => by simp [decode_familyE hhi, decodeE, hnn],
    fun s x => ⟨fun h => ?_, fun h => ?_⟩⟩
  · obtain ⟨hskp, hsknp⟩ := exec_skp_sknp_of_key h
    have hframe (c : Bool) : Frame [] [] s (s.skipIf c) := (Frame.refl _ _ s).skipIf c
    exact ⟨⟨_, hskp, State.skipIf_pc s _, hframe _⟩, ⟨_, hsknp, State.skipIf_not_pc s _, hframe _⟩⟩
  · obtain ⟨hskp, hsknp⟩ := exec_skp_sknp_of_no_key h
    exact ⟨⟨_, hskp, State.raise_raisesOnly _ s⟩, ⟨_, hsknp, State.raise_raisesOnly _ s⟩⟩

end Sys2Proof.Machine
end

section
/-! SUPPORT. Family F: its words, the key that a wait takes, the branches of the instructions that use a run at I, and what
each leaves in memory and in the registers. -/

namespace Sys2Proof.Machine

/-! ### The words of family F (30_encoding.md R58) -/

/-- A row of family F states what the decoder answers on one low byte. -/
theorem encodedAs_familyF {mk : Word → Instr} {nn : Byte} (h : ∀ op : Word, op.nn = nn → decodeF op = mk op) :
    EncodedAs 0xF0FF (0xF#4 ++ 0#4 ++ nn) mk :=
  encodedAs_of_hi_nn fun op hhi hnn => (decode_familyF hhi).trans (h op hnn)

/-! ### The key that a wait takes (46_f_family.md R122) -/

/-- Every pressed key is the choice of some pick: its place among the pressed keys (decision D6). -/
theorem StepInput.exists_pick_of_pressed {inp : StepInput} {k : Nat} (hk : k < 16) (h : inp.isPressed k = true) :
    ∃ pick, StepInput.chosenKey { inp with pick := pick } = some k := by
  obtain ⟨n, hn, hget⟩ := List.mem_iff_getElem.1 (StepInput.mem_pressed.2 ⟨hk, h⟩)
  have hlength : inp.pressed.length ≤ 16 := List.length_filter_le _ _
  have hpick : (BitVec.ofNat 4 n).toNat = n := Nat.mod_eq_of_lt (hn.trans_le hlength)
  refine ⟨BitVec.ofNat 4 n, ?_⟩
  calc inp.pressed[(BitVec.ofNat 4 n).toNat % inp.pressed.length]?
    _ = inp.pressed[n]? := by rw [hpick, Nat.mod_eq_of_lt hn]
    _ = some k := List.getElem?_eq_some_iff.2 ⟨hn, hget⟩

/-- A key's number fits the register it is written to. -/
theorem State.toNat_reg_setReg_key (s : State) (x : RegIdx) {k : Nat} (hk : k < 16) :
    ((s.setReg x (BitVec.ofNat 8 k)).reg x).toNat = k := by
  rw [State.setReg_reg_self, BitVec.toNat_ofNat, Nat.mod_eq_of_lt (hk.trans (by decide))]

section
variable {s : State} {x : RegIdx}

/-- A wait that finds no key leaves the state as it is. -/
theorem exec_ldVxK_of_none (h : s.input.chosenKey = none) : exec (.ldVxK x) s = .next s := by
  simp only [exec, execLdVxK, h]

/-- A wait that finds a key writes its number and goes on. -/
theorem exec_ldVxK_of_some {k : Nat} (h : s.input.chosenKey = some k) :
    exec (.ldVxK x) s = .next (s.setReg x (BitVec.ofNat 8 k)).advance := by
  simp only [exec, execLdVxK, h]

/-! ### The branches of the instructions that use a run at I (20_memory.md R36) -/

/-- A run whose last byte is `n` past I faults when that byte is past the end of memory. -/
theorem State.runFault_past_end {n : Nat} (h : 0xFFF < s.i.toNat + n) :
    s.runFault (n + 1) = some (.addressOutOfRange (max s.i.toNat 0x1000)) :=
  State.runFault_eq_some.2 ⟨⟨Nat.succ_pos n, h⟩, rfl⟩

/-- The digits of Vx are stored to a valid run at I. -/
theorem exec_ldB_of_valid (h : s.i.toNat + 2 ≤ 0xFFF) :
    exec (.ldB x) s = .next (s.storeRun (bcdDigits (s.reg x))).advance := by
  have hrun : s.runFault 3 = none := State.runFault_eq_none.2 (.inr h)
  simp only [exec, execLdB, hrun]

/-- A run of three bytes past the end of memory faults. -/
theorem exec_ldB_of_invalid (h : 0xFFF < s.i.toNat + 2) :
    exec (.ldB x) s = .next (s.raise (.addressOutOfRange (max s.i.toNat 0x1000))) := by
  have hrun : s.runFault 3 = some _ := State.runFault_past_end h
  simp only [exec, execLdB, hrun]

/-- V[0..x] are loaded from a valid run at I. -/
theorem exec_ldRegs_of_valid (h : s.i.toNat + x.toNat ≤ 0xFFF) :
    exec (.ldRegs x) s = .next (s.loadRegsUpTo x).advance := by
  have hrun : s.runFault (regCount x) = none := State.runFault_eq_none.2 (.inr h)
  simp only [exec, execLdRegs, hrun]

/-- A run of x + 1 bytes past the end of memory faults, in a dump and in a load. -/
theorem exec_stRegs_ldRegs_of_invalid (h : 0xFFF < s.i.toNat + x.toNat) :
    exec (.stRegs x) s = .next (s.raise (.addressOutOfRange (max s.i.toNat 0x1000))) ∧
      exec (.ldRegs x) s = .next (s.raise (.addressOutOfRange (max s.i.toNat 0x1000))) := by
  have hrun : s.runFault (regCount x) = some _ := State.runFault_past_end h
  simp only [exec, execStRegs, execLdRegs, hrun, and_self]

/-! ### What a stored run leaves (46_f_family.md R127 to R129) -/

/-- A run stored at I changes no address outside it. -/
theorem State.read_storeRun_outside (bytes : List Byte) {a : Nat}
    (ha : a < s.i.toNat ∨ s.i.toNat + bytes.length ≤ a) : (s.storeRun bytes).mem.read a = s.mem.read a :=
  Memory.read_storeBytes_outside s.mem bytes ha

/-- The three digits stored to a valid run at I are read back in their order. -/
theorem State.read_storeRun_bcdDigits (hm : s.mem.wf = true) (h : s.i.toNat + 2 ≤ 0xFFF) (b : Byte) {k : Nat}
    (hk : k < 3) : (s.storeRun (bcdDigits b)).mem.read (s.i.toNat + k) = (bcdDigits b)[k] :=
  Memory.read_storeBytes_inside hm h hk

end

/-- A store of a run at I and the advance of PC are framed by memory. -/
theorem Frame.storeRun_advance (s : State) (bytes : List Byte) : Frame [] [.memory] s (s.storeRun bytes).advance :=
  ((Frame.refl _ _ s).storeRun bytes (List.mem_singleton_self _)).jump _

/-- A load of V[0..x] and the advance of PC are framed by those registers. -/
theorem Frame.loadRegsUpTo_advance (s : State) (x : RegIdx) :
    Frame (regsWritten (.ldRegs x)) [] s (s.loadRegsUpTo x).advance := by
  have hload : Frame (regsWritten (.ldRegs x)) [] s (s.loadRegsUpTo x) :=
    (Frame.refl _ _ s).loadRegsUpTo fun _ => mem_regsWritten_ldRegs.2
  exact hload.jump _

/-! ### The statements -/

/-- Settles O30: the wait goes by the key chosen, which is a pressed one, and none exactly when no key is pressed. -/
theorem keyWaitTakesAPressedKey : Obligations.KeyWaitTakesAPressedKey := by
  refine ⟨encodedAs_familyF (nn := 0x0A) fun op hnn => by simp [decodeF, hnn],
    fun s x => ⟨fun hnone => exec_ldVxK_of_none (StepInput.chosenKey_eq_none.2 hnone), ?_⟩⟩
  rintro ⟨j, hj, hpressed⟩
  cases hchosen : s.input.chosenKey with
  | none =>
    rw [StepInput.chosenKey_eq_none.1 hchosen j hj] at hpressed
    cases hpressed
  | some k =>
    obtain ⟨hk, hdown⟩ := StepInput.chosenKey_pressed hchosen
    exact ⟨_, k, exec_ldVxK_of_some hchosen, hk, hdown, State.toNat_reg_setReg_key s x hk, rfl,
      Frame.setReg_advance s x _⟩

/-- Settles O31: the pick that chooses the key, lined up in place of the Step's own. -/
theorem keyWaitMayReportAnyPressedKey : Obligations.KeyWaitMayReportAnyPressedKey := by
  intro s x k hk hpressed
  obtain ⟨pick, hchosen⟩ := StepInput.exists_pick_of_pressed hk hpressed
  exact ⟨pick, _, exec_ldVxK_of_some hchosen, State.toNat_reg_setReg_key _ x hk⟩

/-- Settles O33, branch by branch: the three digits stored, and the raised fault. -/
theorem bcdStoresThreeDigits : Obligations.BcdStoresThreeDigits := by
  refine ⟨encodedAs_familyF (nn := 0x33) fun op hnn => by simp [decodeF, hnn],
    fun s x hm => ⟨fun hvalid => ?_, fun hinvalid => ?_⟩⟩
  · have hread {k : Nat} (hk : k < 3) := State.read_storeRun_bcdDigits hm hvalid (s.reg x) hk
    refine ⟨_, exec_ldB_of_valid hvalid, ?_, ?_, ?_, fun a ha => State.read_storeRun_outside _ ha, rfl,
      Frame.storeRun_advance s _⟩
    · exact (congrArg BitVec.toNat (hread (k := 0) (by decide))).trans (BitVec.toNat_udiv ..)
    · exact (congrArg BitVec.toNat (hread (k := 1) (by decide))).trans (by simp [bcdDigits])
    · exact (congrArg BitVec.toNat (hread (k := 2) (by decide))).trans (BitVec.toNat_umod ..)
  · exact ⟨_, exec_ldB_of_invalid hinvalid, State.raise_raisesOnly _ s⟩

/-- Settles O34, branch by branch: the registers stored, and the raised fault. -/
theorem registerDumpStoresV0ToVx : Obligations.RegisterDumpStoresV0ToVx := by
  refine ⟨encodedAs_familyF (nn := 0x55) fun op hnn => by simp [decodeF, hnn],
    fun s x hm => ⟨fun hvalid => ?_, fun hinvalid => ?_⟩⟩
  · refine ⟨_, exec_stRegs_of_valid hvalid, fun k => State.read_storeRun_regsUpTo hm hvalid,
      fun a ha => State.read_storeRun_outside _ ?_, rfl, Frame.storeRun_advance s _⟩
    rw [State.length_regsUpTo]
    exact ha
  · obtain ⟨hdump, -⟩ := exec_stRegs_ldRegs_of_invalid hinvalid
    exact ⟨_, hdump, State.raise_raisesOnly _ s⟩

/-- Settles O35, branch by branch: the registers up to Vx loaded and those above kept, and the raised fault. -/
theorem registerLoadReadsV0ToVx : Obligations.RegisterLoadReadsV0ToVx := by
  refine ⟨encodedAs_familyF (nn := 0x65) fun op hnn => by simp [decodeF, hnn],
    fun s x => ⟨fun hvalid => ?_, fun hinvalid => ?_⟩⟩
  · refine ⟨_, exec_ldRegs_of_valid hvalid, fun k hk => ?_, fun k hk => ?_, ?_, Frame.loadRegsUpTo_advance s x⟩
    · rw [State.advance_reg, State.loadRegsUpTo_reg, if_pos hk]
    · rw [State.advance_reg, State.loadRegsUpTo_reg, if_neg hk.not_ge]
    · rw [State.advance_pc, State.loadRegsUpTo_pc]
  · obtain ⟨-, hload⟩ := exec_stRegs_ldRegs_of_invalid hinvalid
    exact ⟨_, hload, State.raise_raisesOnly _ s⟩

/-- Settles O36: the dump leaves I as it was, so the load reads each V[k] where the dump stored it (decision D11). -/
theorem dumpThenLoadRestoresTheRegisters : Obligations.DumpThenLoadRestoresTheRegisters := by
  intro s x v hm hvalid
  refine ⟨_, _, exec_stRegs_of_valid hvalid, exec_ldRegs_of_valid hvalid, fun k hk => ?_⟩
  rw [State.advance_reg, State.loadRegsUpTo_reg, if_pos hk]
  exact State.read_storeRun_regsUpTo hm hvalid hk

/-- Settles O28: each instruction is one write, of Vx or of DT, and the advance of PC. -/
theorem delayTimerMoves : Obligations.DelayTimerMoves := by
  refine ⟨encodedAs_familyF (nn := 0x07) fun op hnn => by simp [decodeF, hnn],
    encodedAs_familyF (nn := 0x15) fun op hnn => by simp [decodeF, hnn], fun s x => ⟨?_, ?_⟩⟩
  · exact ⟨_, rfl, State.setReg_reg_self s x s.dt, rfl, Frame.setReg_advance s x s.dt⟩
  · exact ⟨_, rfl, rfl, rfl, instructionsKeepTheirFrame (.ldDtVx x) s _ rfl⟩

/-- Settles O29: the write of ST is the only write beside PC's, so no event is put out (decision D25). -/
theorem soundTimerWriteIsSilent : Obligations.SoundTimerWriteIsSilent :=
  ⟨encodedAs_familyF (nn := 0x18) fun op hnn => by simp [decodeF, hnn],
    fun s x => ⟨_, rfl, rfl, rfl, rfl, instructionsKeepTheirFrame (.ldStVx x) s _ rfl⟩⟩

/-- Settles O32: I is a sum of words, which wraps, or the address of a glyph, which does not. -/
theorem addToIndexAndFontAddress : Obligations.AddToIndexAndFontAddress := by
  refine ⟨encodedAs_familyF (nn := 0x1E) fun op hnn => by simp [decodeF, hnn],
    encodedAs_familyF (nn := 0x29) fun op hnn => by simp [decodeF, hnn], fun s x => ⟨?_, ?_⟩⟩
  · have hsum : (s.i + wordOfByte (s.reg x)).toNat = (s.i.toNat + (s.reg x).toNat) % 65536 := by
      rw [BitVec.toNat_add, toNat_wordOfByte]
    exact ⟨_, rfl, hsum, rfl, instructionsKeepTheirFrame (.addI x) s _ rfl⟩
  · exact ⟨_, rfl, toNat_glyphAddr (s.reg x), rfl, instructionsKeepTheirFrame (.ldF x) s _ rfl⟩

end Sys2Proof.Machine
end

section
/-! SUPPORT. Faults and draws: nested calls up to the limit of the stack, the contract of a draw, and which instructions raise
which fault. -/

namespace Sys2Proof.Machine

/-! ### Nested calls (60_exceptions.md R142) -/

/-- As many calls as the stack has room for all push, whatever their targets. -/
theorem execAll_calls_of_room {targets : List Addr12} {s : State} (h : s.sp.val + targets.length ≤ 16) :
    ∃ t, execAll (targets.map .call) s = .next t ∧ t.sp.val = s.sp.val + targets.length ∧ t.fault = s.fault := by
  induction targets generalizing s with
  | nil => exact ⟨s, rfl, rfl, rfl⟩
  | cons nnn targets ih =>
    rw [List.length_cons] at h ⊢
    have hroom : s.sp ≠ 16 := Fin.ne_of_val_ne (show s.sp.val ≠ 16 by omega)
    have hsp : ((s.push (s.pc + 2)).jump (addrOfNnn nnn)).sp.val = s.sp.val + 1 := State.val_sp_add_one hroom
    obtain ⟨t, ht, htsp, htfault⟩ := ih (s := (s.push (s.pc + 2)).jump (addrOfNnn nnn)) (by omega)
    exact ⟨t, (execAll_cons_of_next (exec_call_of_room hroom nnn)).trans ht, by omega, htfault⟩

/-- Settles O15: sixteen calls from an empty stack have room, and the full stack they leave makes the next one overflow. -/
theorem sixteenCallsNestAndTheNextOverflows : Obligations.SixteenCallsNestAndTheNextOverflows := by
  intro s targets last hempty hlength
  have hval : s.sp.val = 0 := congrArg Fin.val hempty
  obtain ⟨t, ht, htsp, htfault⟩ := execAll_calls_of_room (targets := targets) (s := s) (by omega)
  have hfull : t.sp = 16 := Fin.ext (show t.sp.val = 16 by omega)
  exact ⟨t, _, ht, hfull, htfault, exec_call_of_full hfull last, State.raise_raisesOnly _ t⟩

/-! ### The draw -/

/-- Settles O25: a draw of at most 15 rows plots the pixels that the sprite covers. -/
theorem drawMeetsTheXorContract : Obligations.DrawMeetsTheXorContract := by
  intro d x y rows hrows
  have hl : rows.length ≤ 32 := hrows.trans (by decide)
  exact ⟨(Display.draw_plots hl d x y).pixel, Display.draw_collides hl d x y⟩

/-! ### Which instructions raise a fault (60_exceptions.md R148) -/

/-- The fault that an instruction raises in a state, case by case: stack overflow and underflow (R142, R143), a run at I that
passes the end of memory (R144), and a key number above 15 (R145). -/
inductive NamedFault (s : State) : Instr → FaultReport → Prop where
  | call (nnn : Addr12) (h : s.sp = 16) : NamedFault s (.call nnn) .stackOverflow
  | ret (h : s.sp = 0) : NamedFault s .ret .stackUnderflow
  | drw (x y : RegIdx) (n : Nibble) (h : 0 < n.toNat ∧ 0xFFF < s.i.toNat + (n.toNat - 1)) :
      NamedFault s (.drw x y n) (.addressOutOfRange (max s.i.toNat 0x1000))
  | ldB (x : RegIdx) (h : 0xFFF < s.i.toNat + 2) : NamedFault s (.ldB x) (.addressOutOfRange (max s.i.toNat 0x1000))
  | stRegs (x : RegIdx) (h : 0xFFF < s.i.toNat + x.toNat) :
      NamedFault s (.stRegs x) (.addressOutOfRange (max s.i.toNat 0x1000))
  | ldRegs (x : RegIdx) (h : 0xFFF < s.i.toNat + x.toNat) :
      NamedFault s (.ldRegs x) (.addressOutOfRange (max s.i.toNat 0x1000))
  | skp (x : RegIdx) (h : 15 < (s.reg x).toNat) : NamedFault s (.skp x) (.keyIndexOutOfRange (s.reg x))
  | sknp (x : RegIdx) (h : 15 < (s.reg x).toNat) : NamedFault s (.sknp x) (.keyIndexOutOfRange (s.reg x))

/-- Every instruction leaves FAULT as it is, or raises the fault named for it and does nothing else. -/
theorem exec_keeps_fault_or_raises (i : Instr) (s : State) :
    (∃ t, exec i s = .next t ∧ t.fault = s.fault) ∨ ∃ r, NamedFault s i r ∧ exec i s = .next (s.raise r) := by
  cases i with
  | call nnn =>
    by_cases h : s.sp = 16
    · exact .inr ⟨_, .call nnn h, exec_call_of_full h nnn⟩
    · exact .inl ⟨_, exec_call_of_room h nnn, rfl⟩
  | ret =>
    by_cases h : s.sp = 0
    · exact .inr ⟨_, .ret h, exec_ret_of_empty h⟩
    · exact .inl ⟨_, exec_ret_of_held h, rfl⟩
  | drw x y n =>
    by_cases h : 0 < n.toNat ∧ 0xFFF < s.i.toNat + (n.toNat - 1)
    · exact .inr ⟨_, .drw x y n h, exec_drw_of_invalid h x y⟩
    · exact .inl ⟨_, exec_drw_of_valid (by omega) x y, rfl⟩
  | ldB x =>
    rcases Nat.lt_or_ge 0xFFF (s.i.toNat + 2) with h | h
    · exact .inr ⟨_, .ldB x h, exec_ldB_of_invalid h⟩
    · exact .inl ⟨_, exec_ldB_of_valid h, rfl⟩
  | stRegs x =>
    rcases Nat.lt_or_ge 0xFFF (s.i.toNat + x.toNat) with h | h
    · exact .inr ⟨_, .stRegs x h, (exec_stRegs_ldRegs_of_invalid h).1⟩
    · exact .inl ⟨_, exec_stRegs_of_valid h, rfl⟩
  | ldRegs x =>
    rcases Nat.lt_or_ge 0xFFF (s.i.toNat + x.toNat) with h | h
    · exact .inr ⟨_, .ldRegs x h, (exec_stRegs_ldRegs_of_invalid h).2⟩
    · exact .inl ⟨_, exec_ldRegs_of_valid h, rfl⟩
  | skp x =>
    rcases Nat.lt_or_ge 15 (s.reg x).toNat with h | h
    · exact .inr ⟨_, .skp x h, (exec_skp_sknp_of_no_key h).1⟩
    · exact .inl ⟨_, (exec_skp_sknp_of_key h).1, rfl⟩
  | sknp x =>
    rcases Nat.lt_or_ge 15 (s.reg x).toNat with h | h
    · exact .inr ⟨_, .sknp x h, (exec_skp_sknp_of_no_key h).2⟩
    · exact .inl ⟨_, (exec_skp_sknp_of_key h).2, rfl⟩
  | ldVxK x =>
    refine .inl ⟨_, rfl, ?_⟩
    split <;> rfl
  | _ => exact .inl ⟨_, rfl, rfl⟩

/-- Settles O40: an instruction that leaves FAULT set where it was None has raised the fault named for it. -/
theorem faultsArePreciseAndNamed : Obligations.FaultsArePreciseAndNamed := by
  intro i s t hs ht hfault
  obtain ⟨u, hu, hkept⟩ | ⟨r, hnamed, hraise⟩ := exec_keeps_fault_or_raises i s
  · obtain rfl : u = t := Host.Outcome.next.inj (hu.symm.trans ht)
    exact absurd (hkept.trans hs) hfault
  · obtain rfl : s.raise r = t := Host.Outcome.next.inj (hraise.symm.trans ht)
    refine ⟨r, State.raise_raisesOnly r s, ?_⟩
    cases hnamed with
    | call nnn h => exact .inl ⟨nnn, rfl, h, rfl⟩
    | ret h => exact .inr (.inl ⟨rfl, h, rfl⟩)
    | drw x y n h => exact .inr (.inr (.inl ⟨rfl, .inl ⟨x, y, n, rfl, h⟩⟩))
    | ldB x h => exact .inr (.inr (.inl ⟨rfl, .inr (.inl ⟨x, rfl, h⟩)⟩))
    | stRegs x h => exact .inr (.inr (.inl ⟨rfl, .inr (.inr ⟨x, .inl rfl, h⟩)⟩))
    | ldRegs x h => exact .inr (.inr (.inl ⟨rfl, .inr (.inr ⟨x, .inr rfl, h⟩)⟩))
    | skp x h => exact .inr (.inr (.inr ⟨x, .inl rfl, h, rfl⟩))
    | sknp x h => exact .inr (.inr (.inr ⟨x, .inr rfl, h, rfl⟩))

end Sys2Proof.Machine
end

section
/-! SUPPORT. What the boundary inputs and the Display can reach: every instruction is run from a state with other inputs, or
with another grid, beside its run from the state itself. -/

namespace Sys2Proof.Machine

/-! ### Other boundary inputs (60_exceptions.md R160 to R163) -/

/-- The state with other inputs lined up and another number of the coming Step. -/
def State.withInputs (s : State) (inputs : List StepInput) (n : Nat) : State :=
  { s with oracle := inputs, stepCount := n }

section
variable (s : State) (inputs : List StepInput) (n : Nat)

/-- The check of a run at I reads no input. -/
@[simp] theorem State.withInputs_runFault (len : Nat) : (s.withInputs inputs n).runFault len = s.runFault len := rfl

end

/-- Other inputs are framed by the inputs. -/
theorem Frame.withInputs {regs : List RegIdx} {parts : List Part} {s u : State} (h : Frame regs parts s u)
    (inputs : List StepInput) (n : Nat) (hi : .inputs ∈ parts) : Frame regs parts s (u.withInputs inputs n) :=
  ⟨h.1, fun p hp => by cases p with
    | inputs => exact absurd hi hp
    | _ => exact h.2 _ hp⟩

/-- An instruction that reads no input does the same whatever the inputs: the branch it takes is the same, and so is what it
writes. -/
theorem exec_withInputs {i : Instr} {s t : State} (inputs : List StepInput) (n : Nat) (hrnd : ∀ x nn, i ≠ .rnd x nn)
    (hskp : ∀ x, i ≠ .skp x) (hsknp : ∀ x, i ≠ .sknp x) (hwait : ∀ x, i ≠ .ldVxK x) (h : exec i s = .next t) :
    exec i (s.withInputs inputs n) = .next (t.withInputs inputs n) := by
  cases i with
  | rnd x nn => exact absurd rfl (hrnd x nn)
  | skp x => exact absurd rfl (hskp x)
  | sknp x => exact absurd rfl (hsknp x)
  | ldVxK x => exact absurd rfl (hwait x)
  | call | ret =>
    obtain rfl := Host.Outcome.next.inj h
    rw [apply_ite (State.withInputs · inputs n)]
    rfl
  | drw | ldB | stRegs | ldRegs =>
    obtain rfl := Host.Outcome.next.inj h
    refine congrArg Host.Outcome.next ?_
    simp only [State.withInputs_runFault]
    split <;> rfl
  | _ => exact Host.Outcome.next.inj h ▸ rfl

/-- Settles O42, by the two runs of every instruction that reads no input. -/
theorem inputsReachOnlyFourInstructions : Obligations.InputsReachOnlyFourInstructions :=
  fun _ _ _ inputs n hrnd hskp hsknp hwait h => exec_withInputs inputs n hrnd hskp hsknp hwait h

/-! ### Another grid (60_exceptions.md R159) -/

/-- The state with another grid on the Display. -/
def State.withDisplay (s : State) (d : Display) : State := { s with display := d }

section
variable (s : State) (d : Display)

/-- A register is not on the Display. -/
@[simp] theorem State.withDisplay_reg (r : RegIdx) : (s.withDisplay d).reg r = s.reg r := rfl

/-- The check of a run at I does not read the grid. -/
@[simp] theorem State.withDisplay_runFault (len : Nat) : (s.withDisplay d).runFault len = s.runFault len := rfl

/-- Neither does the host, where it supplies a Step's input. -/
@[simp] theorem State.withDisplay_input : (s.withDisplay d).input = s.input := rfl

end

/-- Another grid is framed by the Display. -/
theorem Frame.withDisplay {regs : List RegIdx} {parts : List Part} {s u : State} (h : Frame regs parts s u) (d : Display)
    (hd : .display ∈ parts) : Frame regs parts s (u.withDisplay d) :=
  ⟨h.1, fun p hp => by cases p with
    | display => exact absurd hd hp
    | _ => exact h.2 _ hp⟩

/-- Of two writes of the flag the later one stands. -/
theorem State.setFlag_setFlag (s : State) (b c : Bool) : (s.setFlag b).setFlag c = s.setFlag c := by
  simp only [State.setFlag, State.setReg, Vector.set_set]

/-- From another grid a valid draw leaves what it leaves from the state's own, but for the grid and the flag. -/
theorem State.drawSprite_withDisplay (s : State) (d : Display) (x y : RegIdx) (n : Nibble) :
    ∃ e c, ((s.withDisplay d).drawSprite x y n).advance = ((s.drawSprite x y n).advance.withDisplay e).setFlag c :=
  ⟨_, _, congrArg State.advance (State.setFlag_setFlag ((s.withDisplay d).drawDisplay _ _ _) _ _).symm⟩

/-- From another grid an instruction leaves the same state but for the grid, and a draw also but for the flag. -/
theorem exec_withDisplay {i : Instr} {s t : State} (d : Display) (h : exec i s = .next t) :
    ∃ e, exec i (s.withDisplay d) = .next (t.withDisplay e) ∨
      ∃ x y n c, i = .drw x y n ∧ exec i (s.withDisplay d) = .next ((t.withDisplay e).setFlag c) := by
  cases i with
  | cls => exact ⟨Display.blank, .inl (Host.Outcome.next.inj h ▸ rfl)⟩
  | drw x y n =>
    by_cases hvalid : n.toNat = 0 ∨ s.i.toNat + (n.toNat - 1) ≤ 0xFFF
    · obtain rfl := Host.Outcome.next.inj ((exec_drw_of_valid hvalid x y).symm.trans h)
      obtain ⟨e, c, hdraw⟩ := s.drawSprite_withDisplay d x y n
      exact ⟨e, .inr ⟨x, y, n, c, rfl, hdraw ▸ exec_drw_of_valid (s := s.withDisplay d) hvalid x y⟩⟩
    · have hinvalid : 0 < n.toNat ∧ 0xFFF < s.i.toNat + (n.toNat - 1) := by omega
      obtain rfl := Host.Outcome.next.inj ((exec_drw_of_invalid hinvalid x y).symm.trans h)
      exact ⟨d, .inl (exec_drw_of_invalid (s := s.withDisplay d) hinvalid x y)⟩
  | call | ret =>
    obtain rfl := Host.Outcome.next.inj h
    refine ⟨d, .inl ?_⟩
    rw [apply_ite (State.withDisplay · d)]
    rfl
  | ldB | stRegs | ldRegs | skp | sknp | ldVxK =>
    obtain rfl := Host.Outcome.next.inj h
    refine ⟨d, .inl (congrArg Host.Outcome.next ?_)⟩
    simp only [State.withDisplay_runFault, State.withDisplay_input, State.withDisplay_reg]
    split <;> rfl
  | _ => exact ⟨d, .inl (Host.Outcome.next.inj h ▸ rfl)⟩

/-- Settles O43: another grid and another flag are framed by the Display and VF, and only a draw leaves another flag. -/
theorem displayReachesOnlyVf : Obligations.DisplayReachesOnlyVf := by
  intro i s t d h
  have hgrid (e : Display) : Frame [vf] [.display] t (t.withDisplay e) :=
    (Frame.refl _ _ t).withDisplay e (List.mem_singleton_self _)
  obtain ⟨e, hsame | ⟨x, y, n, c, rfl, hflag⟩⟩ := exec_withDisplay d h
  · exact ⟨_, hsame, rfl, rfl, hgrid e, fun _ => rfl⟩
  · exact ⟨_, hflag, rfl, rfl, (hgrid e).setReg _ (List.mem_singleton_self vf), fun hdrw => absurd rfl (hdrw x y n)⟩

end Sys2Proof.Machine
end

section
/-! SUPPORT. Ticks: what one does to the timers, to the events and to nothing else, and what any number of them does. -/

namespace Sys2Proof.Machine

/-! ### One Tick (60_exceptions.md R150) -/

/-- A timer counts down by one, and stops at 0. -/
@[simp] theorem toNat_countDown (b : Byte) : (countDown b).toNat = b.toNat - 1 := by
  unfold countDown
  split
  · next h => rw [h]; rfl
  · next h =>
    have hpos : (1 : Byte).toNat ≤ b.toNat := Nat.pos_of_ne_zero fun h0 => h (BitVec.eq_of_toNat_eq h0)
    exact BitVec.toNat_sub_of_le hpos

section
variable (s : State)

/-- DT counts down. -/
@[simp] theorem tick_dt : (tick s).dt = countDown s.dt := by
  unfold tick
  split <;> rfl

/-- So does ST. -/
@[simp] theorem tick_st : (tick s).st = countDown s.st := by
  unfold tick
  split <;> rfl

/-- PC stays. -/
@[simp] theorem tick_pc : (tick s).pc = s.pc := by
  unfold tick
  split <;> rfl

/-- The silence event leaves the core exactly when ST is 1 (R152, decision D25). -/
theorem tick_events : (tick s).events = (if s.st = 1 then [.silence] else []) ++ s.events := by
  have hsilence : s.silence = true ↔ s.st = 1 := beq_iff_eq
  simp only [tick, hsilence]
  split <;> rfl

end

/-- A Tick is framed by the timers and the events. -/
theorem Frame.tick {regs : List RegIdx} {parts : List Part} {s u : State} (h : Frame regs parts s u)
    (hd : .delay ∈ parts) (hs : .sound ∈ parts) (he : .events ∈ parts) : Frame regs parts s (tick u) := by
  have htimers := (h.setDelay (countDown u.dt) hd).setSound (countDown u.st) hs
  unfold Machine.tick
  split
  · exact htimers.emit .silence he
  · exact htimers

/-- Settles O53, field by field. -/
theorem tickCountsBothTimersDown : Obligations.TickCountsBothTimersDown := fun _ s =>
  ⟨tick s, rfl, by simp, by simp, tick_events s, tick_pc s, (Frame.refl _ _ s).tick (by simp) (by simp) (by simp)⟩

/-! ### Ticks in a row (60_exceptions.md R151, R152) -/

/-- Settles O54, by induction on the number of Ticks: the first one leaves the timers lower by one, and its silence event
is the row's when ST starts at 1. -/
theorem ticksReachZeroAndSignalOnce : Obligations.TicksReachZeroAndSignalOnce := by
  intro font n
  induction n with
  | zero =>
    intro s
    exact ⟨s, rfl, rfl, rfl, by rw [if_neg (by omega)]; rfl, rfl, Frame.refl _ _ s⟩
  | succ n ih =>
    intro s
    obtain ⟨t, ht, hdt, hst, hevents, hpc, hframe⟩ := ih (tick s)
    rw [tick_dt, toNat_countDown] at hdt
    rw [tick_st, toNat_countDown] at hst hevents
    refine ⟨t, ht, by omega, by omega, ?_, hpc.trans (tick_pc s),
      ((Frame.refl _ _ s).tick (by simp) (by simp) (by simp)).trans hframe⟩
    have hone : s.st = 1 ↔ s.st.toNat = 1 := BitVec.toNat_inj.symm
    rw [hevents, tick_events, ← List.append_assoc]
    congr 1
    by_cases h1 : s.st.toNat = 1
    · rw [if_neg (by omega), if_pos (hone.2 h1), if_pos (by omega), List.nil_append]
    · rw [if_neg (hone.not.2 h1), List.append_nil]
      exact if_congr (by omega) rfl rfl

end Sys2Proof.Machine
end

section
/-! SUPPORT. Reset and Load: the registers and the stack after a Reset, what a Load leaves unchanged, and the launch state. -/

namespace Sys2Proof.Machine

/-! ### Reset (70_reset_and_hazards.md R170) -/

section
variable (font : Font) (fill : List Byte) (s : State)

/-- Every register is 0. -/
@[simp] theorem resetMachine_reg (r : RegIdx) : (resetMachine font fill s).reg r = 0 := by
  simp [State.reg, resetMachine, State.reset]

/-- So is every slot of the stack, and what a slot outside it reads as. -/
@[simp] theorem resetMachine_slot (k : Nat) : (resetMachine font fill s).slot k = 0 := by
  by_cases hk : k < 16 <;> simp [State.slot, resetMachine, State.reset, hk]

end

/-- Settles O49: the first state of the model is itself a Reset with the default font. -/
theorem resetSetsEveryRegister : Obligations.ResetSetsEveryRegister := by
  intro font fill s t ht
  obtain ⟨fill', s', rfl⟩ : ∃ fill' s', t = resetMachine font fill' s' := by
    obtain rfl | ⟨rfl, rfl⟩ := ht
    · exact ⟨fill, s, rfl⟩
    · exact ⟨[], State.reset, resetMachine_default.symm⟩
  refine ⟨resetMachine_reg _ _ _, rfl, rfl, rfl, fun k _ => resetMachine_slot _ _ _ k, rfl, rfl, rfl,
    fun _ => read_resetMemory_font _ _, wf_resetMemory _ _, fun hreset => ?_⟩
  rw [hreset]
  exact ⟨rfl, rfl, fun _ => read_resetMemory_fill _ _⟩

/-! ### Load (70_reset_and_hazards.md R173) -/

/-- A store of bytes is framed by memory. -/
theorem Frame.store {regs : List RegIdx} {parts : List Part} {s u : State} (h : Frame regs parts s u) (a : Nat)
    (bytes : List Byte) (hm : .memory ∈ parts) : Frame regs parts s (u.store a bytes) :=
  ⟨h.1, fun p hp => by cases p with
    | memory => exact absurd hm hp
    | _ => exact h.2 _ hp⟩

/-- The k-th byte of a program that fits is in memory at 0x200 + k after its Load. -/
theorem getElem?_eq_read_loadProgram {bytes : List Byte} {s : State} {k : Nat} (hm : s.mem.wf = true)
    (h : bytes.length ≤ 3584) (hk : k < bytes.length) :
    bytes[k]? = some ((loadProgram bytes s).mem.read (0x200 + k)) := by
  rw [read_loadProgram_inside hm h hk, List.getElem?_eq_getElem hk]

/-- Settles O51: a program that fits is one store, and one too long is one event. -/
theorem loadCopiesTheProgram : Obligations.LoadCopiesTheProgram := by
  refine fun bytes s hm => ⟨fun hfits => ⟨fun k => getElem?_eq_read_loadProgram hm hfits,
    fun a => read_loadProgram_outside, ?_⟩, fun hlong => ?_⟩
  · rw [loadProgram_of_fits hfits]
    exact ⟨rfl, (Frame.refl _ _ s).store _ _ (by simp)⟩
  · rw [loadProgram_of_too_large hlong]
    exact ⟨rfl, rfl, (Frame.refl _ _ s).emit _ (by simp)⟩

/-! ### The launch state (70_reset_and_hazards.md R176) -/

/-- Settles O52: a Load that fits writes memory alone, so all else is as the Reset left it, and so is memory outside the
program. -/
theorem launchState : Obligations.LaunchState := by
  rintro font fill bytes s t hfits rfl
  have hlaunch : s.launch font fill bytes = (resetMachine font fill s).store 0x200 bytes := loadProgram_of_fits hfits _
  have hwf : (resetMachine font fill s).mem.wf = true := wf_resetMemory font fill
  have houtside {a : Nat} (ha : a < 0x200 ∨ 0x200 + bytes.length ≤ a) :
      ((resetMachine font fill s).store 0x200 bytes).mem.read a = (resetMemory font fill).read a :=
    Memory.read_storeBytes_outside _ bytes ha
  rw [hlaunch]
  refine ⟨resetMachine_reg font fill s, rfl, rfl, rfl, fun k _ => resetMachine_slot font fill s k, rfl, rfl, rfl, rfl,
    fun a h => ?_, fun k hk => ?_, fun a h ha hout => ?_⟩
  · exact (houtside (.inl (by omega))).trans (read_resetMemory_font font fill h)
  · exact hlaunch ▸ getElem?_eq_read_loadProgram hwf hfits hk
  · exact (houtside hout).trans (read_resetMemory_fill font fill h ha)

end Sys2Proof.Machine
end

section
/-! SUPPORT. A finished program: the word of a jump to itself, and that neither a Step nor a Tick moves on from it. -/

namespace Sys2Proof.Machine

/-! ### A jump to itself (70_reset_and_hazards.md R178) -/

/-- The canonical word of a jump is 0x1000 and its target. -/
theorem encode_jp (nnn : Addr12) : encode (.jp nnn) = 0x1000 + addrOfNnn nnn := by
  apply BitVec.eq_of_toNat_eq
  have hnnn := nnn.isLt
  have hbase : (0x1000 : Word).toNat = 4096 := rfl
  calc (0x1#4 ++ nnn).toNat
    _ = 2 ^ 12 * 1 + nnn.toNat := by rw [BitVec.toNat_append, ← Nat.shiftLeft_add_eq_or_of_lt hnnn]; rfl
    _ = (0x1000 + addrOfNnn nnn).toNat := by rw [BitVec.toNat_add, hbase, toNat_addrOfNnn]; omega

section
variable {s : State}

/-- What is fetched in a finished state decodes to a jump to PC. -/
theorem State.Finished.fetch (h : s.Finished) :
    ∃ op nnn, s.fetch = .ok op ∧ decode op = .jp nnn ∧ addrOfNnn nnn = s.pc := by
  obtain ⟨-, hpc, hword⟩ := h
  have htarget : addrOfNnn (s.pc.setWidth 12) = s.pc := by
    apply BitVec.eq_of_toNat_eq
    rw [toNat_addrOfNnn, BitVec.toNat_setWidth]
    omega
  have hencoded : 0x1000 + s.pc = encode (.jp (s.pc.setWidth 12)) := by rw [encode_jp, htarget]
  refine ⟨_, s.pc.setWidth 12, State.fetch_eq_ok hpc, ?_, htarget⟩
  rw [hword, hencoded, decode_encode rfl]

/-- A Step of a finished program uses up its input and changes nothing else. -/
theorem State.Finished.step (h : s.Finished) : step s = .next s.endStep := by
  obtain ⟨op, nnn, hfetch, hdecode, hpc⟩ := h.fetch
  obtain ⟨hfault, -, -⟩ := h
  have hstay : s.jump (addrOfNnn nnn) = s := by rw [hpc]; rfl
  calc Machine.step s
    _ = finishStep (.next (s.jump (addrOfNnn nnn))) := by rw [step_of_fetch_ok hfault hfetch, hdecode]; rfl
    _ = .next s.endStep := by rw [hstay]; rfl

end

/-! ### Steps and Ticks (60_exceptions.md R150) -/

/-- From `s` to `u` no more has changed than the timers, the events and the inputs. -/
structure StandsStill (s u : State) : Prop where
  pc : u.pc = s.pc
  mem : u.mem = s.mem
  frame : Frame [] [.delay, .sound, .events, .inputs] s u

/-- From a state to itself nothing has changed. -/
theorem StandsStill.refl (s : State) : StandsStill s s := ⟨rfl, rfl, Frame.refl _ _ s⟩

/-- Standing still passes along. -/
theorem StandsStill.trans {s t u : State} (h : StandsStill s t) (g : StandsStill t u) : StandsStill s u :=
  ⟨g.pc.trans h.pc, g.mem.trans h.mem, h.frame.trans g.frame⟩

/-- A finished program that stands still is finished. -/
theorem StandsStill.finished {s u : State} (h : StandsStill s u) (hs : s.Finished) : u.Finished := by
  have hfault : u.fault = s.fault := h.frame.2 .faultCell (by simp)
  rwa [State.Finished, hfault, h.pc, h.mem]

/-- A Tick stands still in any state. -/
theorem standsStill_tick (s : State) : StandsStill s (tick s) :=
  ⟨tick_pc s, tick_mem s, (Frame.refl _ _ s).tick (by simp) (by simp) (by simp)⟩

/-- So does a Step of a finished program, whatever its input. -/
theorem State.Finished.perform_step {s : State} (h : s.Finished) (font : Font) (inp : StepInput) :
    ∃ u, perform font (.step inp) s = .next u ∧ StandsStill s u := by
  have hlined : (s.withInputs (inp :: s.oracle) s.stepCount).Finished := h
  exact ⟨_, hlined.step, rfl, rfl, ((Frame.refl _ _ s).withInputs _ _ (by simp)).endStep (by simp)⟩

/-- Settles O55, by induction on the actions: each one is enabled and leaves the program finished where it was. -/
theorem finishedProgramStaysFinished : Obligations.FinishedProgramStaysFinished := by
  intro font actions s hs hactions
  suffices h : ∃ t, performAll font actions s = .next t ∧ StandsStill s t by
    obtain ⟨t, ht, hstill⟩ := h
    exact ⟨t, ht, hstill.finished hs, hstill.pc, hstill.mem, hstill.frame⟩
  induction actions generalizing s with
  | nil => exact ⟨s, rfl, .refl s⟩
  | cons a actions ih =>
    obtain ⟨ha, hrest⟩ := List.forall_mem_cons.1 hactions
    obtain ⟨u, hu, hstill⟩ : ∃ u, perform font a s = .next u ∧ StandsStill s u := by
      obtain rfl | ⟨inp, rfl⟩ := ha
      · exact ⟨tick s, rfl, standsStill_tick s⟩
      · exact hs.perform_step font inp
    obtain ⟨t, ht, hstill'⟩ := ih u (hstill.finished hs) hrest
    exact ⟨t, performAll_cons_eq_next.2 ⟨u, hu, ht⟩, hstill.trans hstill'⟩

end Sys2Proof.Machine
end
